-- ==== Sys2Proof/Word.lean ====
section
/-! DEFINITION. The two bit-vector types of the block: the byte of the wire (R8, R33) and the 16-bit checksum (R83). -/

namespace Sys2Proof

/-- A byte of a frame: 8 bits, an integer 0 to 255 (R8, R9). -/
abbrev Byte := BitVec 8

/-- The checksum C, an integer 0 to 65535 (R83). -/
abbrev Word16 := BitVec 16

end Sys2Proof
end

