-- ==== Sys2Proof/Machine/Bits.lean ====
section
/-! DEFINITION. Bit slices, byte order and byte sequences, as the spec's notation gives them (R9, R10). -/

namespace Sys2Proof.Machine

/-- `v[hi:lo]`, "that is `(v >> lo) mod 2^(hi-lo+1)`" (R9). -/
def bitSlice (v hi lo : Nat) : Nat := (v >>> lo) % 2 ^ (hi - lo + 1)

/-- The byte that holds a checked operand 0 to 255. -/
def byteOfInt (v : Int) : Byte := BitVec.ofInt 8 v

/-- The byte that holds a natural number below 256. -/
def byteOfNat (v : Nat) : Byte := BitVec.ofNat 8 v

/-- The integer a byte holds, unsigned (R9). -/
def intOfByte (b : Byte) : Int := (b.toNat : Int)

/-- `C[7:0]` (R82). -/
def lowByte (c : Word16) : Byte := c.extractLsb' 0 8

/-- `C[15:8]` (R82). -/
def highByte (c : Word16) : Byte := c.extractLsb' 8 8

/-- `F[k]` (R10); 0 past the end of the sequence. -/
def byteAt (frame : List Byte) (k : Nat) : Byte := frame.getD k 0

/-- The k bytes of v, least significant first (R10). -/
def littleEndian : Nat → Nat → List Byte
  | 0, _ => []
  | k + 1, v => byteOfNat v :: littleEndian k (v / 256)

/-- The integer a little-endian byte sequence holds (R10). -/
def littleEndianValue : List Byte → Nat
  | [] => 0
  | b :: bs => b.toNat + 256 * littleEndianValue bs

end Sys2Proof.Machine
end

