-- ==== Sys2Proof/Machine/Protocol.lean ====
section
/-! DEFINITION. The fixed literals of the wire contract: header constants (R7, R29), checksum bias (R7, R83), the two remote
registers (R30) and the sizes of a frame (R46). -/

namespace Sys2Proof.Machine

/-- BIAS, "fixed, `0x5555`; not a parameter a model may vary" (R7). -/
def bias : Nat := 0x5555

/-- SRC_ADDR, "Fixed `0xFE` (host)" (R71). -/
def sourceAddress : Byte := 0xFE

/-- DST_ADDR, "Fixed `0x00` (controller)" (R72). -/
def destinationAddress : Byte := 0x00

/-- DEV_CLASS, "Fixed `0x01`" (R73). -/
def deviceClass : Byte := 0x01

/-- The reserved byte at offset 11 (R77). -/
def reservedByte : Byte := 0x00

/-- The remote register of the display brightness (R30). -/
def brightnessRegister : Int := 0x02000001

/-- The remote register of the test-pattern selector (R30). -/
def patternRegister : Int := 0x02000101

/-- Offset of the sequence number, where the checksum's range begins (R84). -/
def checksumStart : Nat := 3

/-- Bytes of header before the payload, offsets 0 to 17 (R46). -/
def headerLength : Nat := 18

/-- Bytes of a frame beside its payload: "The total length is `len(F) = 20 + N`" (R46). -/
def frameOverhead : Nat := 20

end Sys2Proof.Machine
end

