-- ==== Sys2Proof/Machine/Checksum.lean ====
section
/-! DEFINITION. The checksum: its definition by the exact sum (R83), the wrapping accumulator an implementation may use
(R86), and the round-trip property of a finished frame (R88). -/

namespace Sys2Proof.Machine

/-- The exact sum of a byte sequence, "unsigned, no wraparound during accumulation" (R83). -/
def byteSum : List Byte → Nat
  | [] => 0
  | b :: bs => b.toNat + byteSum bs

/-- S of R83: the sum over the offsets from 3 to the end of the bytes emitted so far. -/
def checksumSum (frame : List Byte) : Nat := byteSum (frame.drop checksumStart)

/-- CHECKSUM(F), `C = (S + 0x5555) mod 65536` (R83, R85). -/
def checksum (frame : List Byte) : Word16 := BitVec.ofNat 16 (checksumSum frame + bias)

/-- The 16-bit accumulator that wraps (R86). -/
def wrappingSum : Word16 → List Byte → Word16
  | acc, [] => acc
  | acc, b :: bs => wrappingSum (acc + b.setWidth 16) bs

/-- The implementation R86 allows: a wrapping 16-bit register that starts at the bias. -/
def wrappingChecksum (frame : List Byte) : Word16 :=
  wrappingSum (BitVec.ofNat 16 bias) (frame.drop checksumStart)

/-- The trailing two bytes of a frame, read little-endian, are the checksum of what stands before them (R88). -/
def checksumHolds (frame : List Byte) : Bool :=
  let body := frame.take (frame.length - 2)
  decide (littleEndianValue (frame.drop (frame.length - 2)) = (checksum body).toNat)

end Sys2Proof.Machine
end

