-- ==== Sys2Proof/Syntax.lean ====
section
/-! DEFINITION. The commands of the block as data: the operand record of BUILD (format B, R51), one constructor of `Instr` for
each of the nine rows of spec/opcode_table.json, the defaults of R54 and the pattern names of R62.
Numeric operands are integers, which may be negative or too large for their field: the range checks of R100 belong to the
machine (R53). -/

namespace Sys2Proof

/-- Format B, the operand record of BUILD, in the order of the document's contract (R51). -/
structure BuildOperands where
  sequence : Int
  registerAddress : Int
  payloadLength : Int
  /-- N bytes; absent is the empty list (R55). -/
  payload : List Int
  port : Int
  isCommand : Bool
  isWrite : Bool
  ack : Int
  deriving DecidableEq, Repr

/-- One constructor per row of spec/opcode_table.json (R50, R57).  The four `build…` shapes are BUILD with its two Boolean
operands fixed; `checksum` is the sub-operation of BUILD, which a host cannot present (R83). -/
inductive Instr where
  /-- BUILD (R64). -/
  | build (sequence registerAddress payloadLength : Int) (payload : List Int) (port : Int)
      (isCommand isWrite : Bool) (ack : Int)
  /-- BUILD.command_write: is_command = true, is_write = true (R57). -/
  | buildCommandWrite (sequence registerAddress payloadLength : Int) (payload : List Int) (port ack : Int)
  /-- BUILD.command_read: is_command = true, is_write = false (R57). -/
  | buildCommandRead (sequence registerAddress payloadLength : Int) (payload : List Int) (port ack : Int)
  /-- BUILD.response_write: is_command = false, is_write = true (R57). -/
  | buildResponseWrite (sequence registerAddress payloadLength : Int) (payload : List Int) (port ack : Int)
  /-- BUILD.response_read: is_command = false, is_write = false (R57). -/
  | buildResponseRead (sequence registerAddress payloadLength : Int) (payload : List Int) (port ack : Int)
  /-- SETBRT, the document's set_brightness (R92). -/
  | setbrt (level : Int)
  /-- SHOWPAT, the document's show_pattern (R93). -/
  | showpat (patternCode : Int)
  /-- CONSTRUCT with PORT_INIT and the label of a transport binding (R91). -/
  | construct (portInit : Int) (transport : Nat)
  /-- CHECKSUM over the bytes emitted so far, offsets 0 to 17 + N (R83). -/
  | checksum (frame : List Byte)
  deriving DecidableEq, Repr

/-- A BUILD written without its three mode operands (R54). -/
def Instr.buildDefault (sequence registerAddress payloadLength : Int) (payload : List Int) (port : Int) : Instr :=
  .build sequence registerAddress payloadLength payload port true true 0

/-- BUILD of format B with the operands of a record. -/
def BuildOperands.toInstr (o : BuildOperands) : Instr :=
  .build o.sequence o.registerAddress o.payloadLength o.payload o.port o.isCommand o.isWrite o.ack

/-- The commands and the construction action of R50 (with the four spellings of BUILD by shape), that is everything a host can
present; CHECKSUM "is not a command the host can present on its own". -/
def Instr.presentable : Instr → Bool
  | .build .. => true
  | .buildCommandWrite .. => true
  | .buildCommandRead .. => true
  | .buildResponseWrite .. => true
  | .buildResponseRead .. => true
  | .setbrt _ => true
  | .showpat _ => true
  | .construct .. => true
  | .checksum _ => false

/-- The names of the pattern codes (R62). -/
inductive Pattern where
  | normal | red | green | blue | white | horizontal | vertical | slash | grayscale
  deriving DecidableEq, Repr

/-- "normal=1, red=2, green=3, blue=4, white=5, horizontal=6, vertical=7, slash=8, grayscale=9" (R62). -/
def Pattern.code : Pattern → Int
  | .normal => 1
  | .red => 2
  | .green => 3
  | .blue => 4
  | .white => 5
  | .horizontal => 6
  | .vertical => 7
  | .slash => 8
  | .grayscale => 9

/-- `SHOWPAT red` is `SHOWPAT 2` (R62). -/
def Instr.showNamed (p : Pattern) : Instr := .showpat p.code

end Sys2Proof
end

