-- ==== Sys2Proof/Config.lean ====
section
/-! DEFINITION. The OPEN parameters of the block (R7): PMAX, SEQ_INC and the operand port widths OPW.<operand>, a record every state
carries and no step changes, their values in `State.reset` (constants without a body, so that no proof can lean on a value), and the
PORT_INIT and transport binding of `State.reset`. -/

namespace Sys2Proof

/-- OPW.<operand>, "physical width of each operand port" in bits, one for each operand of formats B and C and of CONSTRUCT (R7, R51,
R52, R53). -/
structure OperandWidths where
  sequence : Nat
  registerAddress : Nat
  payloadLength : Nat
  /-- The port of one payload byte. -/
  payload : Nat
  port : Nat
  isCommand : Nat
  isWrite : Nat
  ack : Nat
  level : Nat
  patternCode : Nat
  /-- The port of CONSTRUCT's PORT_INIT. -/
  portInit : Nat
  deriving DecidableEq, Repr, Inhabited

/-- The declared widths (R51), and for an operand that is declared by a range the width R53 calls natural: 9 bits for a port number,
4 for a pattern code, 8 for a level (log 3). -/
def OperandWidths.declared : OperandWidths :=
  { sequence := 8, registerAddress := 32, payloadLength := 16, payload := 8, port := 9, isCommand := 1, isWrite := 1, ack := 8
    level := 8, patternCode := 4, portInit := 9 }

/-- Ports wider than `w` by `extra` bits, operand by operand. -/
def OperandWidths.plus (w extra : OperandWidths) : OperandWidths :=
  { sequence := w.sequence + extra.sequence, registerAddress := w.registerAddress + extra.registerAddress
    payloadLength := w.payloadLength + extra.payloadLength, payload := w.payload + extra.payload, port := w.port + extra.port
    isCommand := w.isCommand + extra.isCommand, isWrite := w.isWrite + extra.isWrite, ack := w.ack + extra.ack
    level := w.level + extra.level, patternCode := w.patternCode + extra.patternCode, portInit := w.portInit + extra.portInit }

/-- "at least the operand's declared width" (R7). -/
def OperandWidths.legal (w : OperandWidths) : Bool :=
  let d := OperandWidths.declared
  decide (d.sequence ≤ w.sequence) && decide (d.registerAddress ≤ w.registerAddress) &&
    decide (d.payloadLength ≤ w.payloadLength) && decide (d.payload ≤ w.payload) && decide (d.port ≤ w.port) &&
    decide (d.isCommand ≤ w.isCommand) && decide (d.isWrite ≤ w.isWrite) && decide (d.ack ≤ w.ack) &&
    decide (d.level ≤ w.level) && decide (d.patternCode ≤ w.patternCode) && decide (d.portInit ≤ w.portInit)

/-- The OPEN parameters of R7.  Fixed for the life of a block; a claim holds for every value of them. -/
structure Params where
  /-- PMAX, the largest payload byte count N that BUILD accepts; R7 asks for PMAX ≥ 1 (`Params.legal`). -/
  pmax : Nat
  /-- SEQ_INC, whether a successful client command increments SEQ (R94). -/
  seqInc : Bool
  /-- OPW.<operand>: "the rules are written over the integers and do not depend on it" (R7).  It bounds what a host can present
  (`Instr.carriedBy`), not what a command does. -/
  opw : OperandWidths
  deriving DecidableEq, Repr

/-- What R7 demands of the parameters: "an integer with PMAX ≥ 1", and ports "at least the operand's declared width". -/
def Params.legal (p : Params) : Bool := decide (1 ≤ p.pmax) && p.opw.legal

namespace Config

/-- How far PMAX of the reset state exceeds its least legal value 1.  OPEN (R7, R67): no body, any value (log 1). -/
opaque pmaxBeyondOne : Nat

/-- SEQ_INC of the reset state.  OPEN (R7, R94): no body, either value (log 1). -/
opaque seqInc : Bool

/-- How many bits wider than declared each operand port of the reset state is.  OPEN (R7, R53): no body, any value (log 1). -/
opaque opwBeyondDeclared : OperandWidths

/-- The parameters of the block whose reset state is `State.reset`.  Legal by construction. -/
def openParams : Params :=
  { pmax := pmaxBeyondOne + 1, seqInc := seqInc, opw := OperandWidths.declared.plus opwBeyondDeclared }

/-- DESIGN CHOICE (log 2): the PORT_INIT of `State.reset`.  R7 leaves it to whoever constructs the client; 1 is the value the
surrounding system uses when none is given (R63, R117). -/
def portInit : Int := 1

/-- DESIGN CHOICE (log 2): the label of the transport bound in `State.reset`. -/
def transportInit : Nat := 0

end Config

end Sys2Proof
end

