-- ==== Sys2Proof/WellFormed.lean ====
section
/-! DEFINITION. Which commands are legal: every operand inside the accepted values of R51 and R52 (R59); and which a host can put on
operand ports of given widths (R53). -/

namespace Sys2Proof

/-- An integer inside a closed range. -/
abbrev Within (lo hi v : Int) : Prop := lo ≤ v ∧ v ≤ hi

/-- The column "accepted values" of R51, but for the bound PMAX on N. -/
abbrev BuildOperands.Fits (o : BuildOperands) : Prop :=
  Within 0 255 o.sequence ∧ Within 1 256 o.port ∧ Within 0 0xFFFFFFFF o.registerAddress ∧
    Within 0 65535 o.payloadLength ∧ (∀ b ∈ o.payload, Within 0 255 b) ∧ Within 0 255 o.ack

/-- The whole column "accepted values" of R51, N ≤ PMAX included. -/
abbrev BuildOperands.Accepted (pmax : Nat) (o : BuildOperands) : Prop :=
  o.Fits ∧ o.payload.length ≤ pmax

/-- A legal command (R59): BUILD by R51, the client commands by R52, CONSTRUCT by the legal values of PORT_INIT (R7), CHECKSUM
by the 18 + N bytes it is given (R83).  Illegal commands are still commands: they run and end with a validation error. -/
def Instr.wellFormed (pmax : Nat) : Instr → Bool
  | .build sequence registerAddress payloadLength payload port isCommand isWrite ack =>
    decide (BuildOperands.Accepted pmax ⟨sequence, registerAddress, payloadLength, payload, port, isCommand, isWrite, ack⟩)
  | .buildCommandWrite sequence registerAddress payloadLength payload port ack =>
    decide (BuildOperands.Accepted pmax ⟨sequence, registerAddress, payloadLength, payload, port, true, true, ack⟩)
  | .buildCommandRead sequence registerAddress payloadLength payload port ack =>
    decide (BuildOperands.Accepted pmax ⟨sequence, registerAddress, payloadLength, payload, port, true, false, ack⟩)
  | .buildResponseWrite sequence registerAddress payloadLength payload port ack =>
    decide (BuildOperands.Accepted pmax ⟨sequence, registerAddress, payloadLength, payload, port, false, true, ack⟩)
  | .buildResponseRead sequence registerAddress payloadLength payload port ack =>
    decide (BuildOperands.Accepted pmax ⟨sequence, registerAddress, payloadLength, payload, port, false, false, ack⟩)
  | .setbrt level => decide (Within 0 255 level)
  | .showpat patternCode => decide (Within 1 9 patternCode)
  | .construct portInit _ => decide (Within 1 256 portInit)
  | .checksum frame => decide (18 ≤ frame.length)

/-- A port of `width` bits carries the value: an unsigned number below 2^width, as R53 counts ("a 9-bit port carries 0 and 257 to
511"). -/
abbrev Carries (width : Nat) (v : Int) : Prop := 0 ≤ v ∧ v < 2 ^ width

/-- The operands of a BUILD can be presented on ports of these widths; both Booleans always can. -/
abbrev BuildOperands.CarriedBy (w : OperandWidths) (o : BuildOperands) : Prop :=
  Carries w.sequence o.sequence ∧ Carries w.registerAddress o.registerAddress ∧ Carries w.payloadLength o.payloadLength ∧
    (∀ b ∈ o.payload, Carries w.payload b) ∧ Carries w.port o.port ∧ Carries w.ack o.ack

/-- Whether a host can present the command on operand ports of these widths (R53).  No step asks: "A model takes the operands as
integers and keeps every check".  CHECKSUM has no operand port (R83). -/
def Instr.carriedBy (w : OperandWidths) : Instr → Bool
  | .build sequence registerAddress payloadLength payload port isCommand isWrite ack =>
    decide (BuildOperands.CarriedBy w ⟨sequence, registerAddress, payloadLength, payload, port, isCommand, isWrite, ack⟩)
  | .buildCommandWrite sequence registerAddress payloadLength payload port ack =>
    decide (BuildOperands.CarriedBy w ⟨sequence, registerAddress, payloadLength, payload, port, true, true, ack⟩)
  | .buildCommandRead sequence registerAddress payloadLength payload port ack =>
    decide (BuildOperands.CarriedBy w ⟨sequence, registerAddress, payloadLength, payload, port, true, false, ack⟩)
  | .buildResponseWrite sequence registerAddress payloadLength payload port ack =>
    decide (BuildOperands.CarriedBy w ⟨sequence, registerAddress, payloadLength, payload, port, false, true, ack⟩)
  | .buildResponseRead sequence registerAddress payloadLength payload port ack =>
    decide (BuildOperands.CarriedBy w ⟨sequence, registerAddress, payloadLength, payload, port, false, false, ack⟩)
  | .setbrt level => decide (Carries w.level level)
  | .showpat patternCode => decide (Carries w.patternCode patternCode)
  | .construct portInit _ => decide (Carries w.portInit portInit)
  | .checksum _ => true

end Sys2Proof
end

