-- ==== Sys2Proof/Decode.lean ====
section
/-! DEFINITION. Frames and commands.  A command has no binary form of its own (R50): its "encoding" is the frame it emits
(95_test_vectors.md Part 3), and the rows of spec/opcode_table.json are masks over the 18 header bytes of that frame (R57).
`decode` reads the command back from a frame, total on any bytes and rejecting by name; `encodeWith` lays a command's frame out
from the table of R46; `Instr.onWire` says which command a frame is read back as. -/

namespace Sys2Proof

open Sys2Proof.Machine

/-- A row of spec/opcode_table.json with match and mask over the 18 header bytes in wire order (R57). -/
structure Row where
  pattern : List Byte
  mask : List Byte
  deriving DecidableEq, Repr

/-- "a frame belongs to a row when `F[k] & mask[k] = match[k]` for every k from 0 to 17" (R57). -/
def Row.covers (r : Row) (frame : List Byte) : Bool :=
  (List.range headerLength).all fun k => (byteAt frame k &&& byteAt r.mask k) == byteAt r.pattern k

/-- The mask of the four shape rows (R57). -/
def shapeMask : List Byte :=
  [0xFF, 0xFF, 0x00, 0x00, 0xFF, 0xFF, 0xFF, 0x00, 0xFF, 0xFF, 0xFF, 0xFF, 0x00, 0x00, 0x00, 0x00, 0x00, 0xFF]

/-- The mask of the two client rows (R57). -/
def clientMask : List Byte :=
  [0xFF, 0xFF, 0xFF, 0x00, 0xFF, 0xFF, 0xFF, 0x00, 0xFF, 0xFF, 0xFF, 0xFF, 0xFF, 0xFF, 0xFF, 0xFF, 0xFF, 0xFF]

/-- BUILD in general: the bytes constant in every frame (R48). -/
def buildRow : Row :=
  { pattern := [0x00, 0x00, 0x00, 0x00, 0xFE, 0x00, 0x01, 0x00, 0x00, 0x00, 0x00, 0x00, 0x00, 0x00, 0x00, 0x00, 0x00, 0x00]
    mask := [0x00, 0x00, 0x00, 0x00, 0xFF, 0xFF, 0xFF, 0x00, 0x00, 0x00, 0x00, 0xFF, 0x00, 0x00, 0x00, 0x00, 0x00, 0xFF] }

/-- BUILD.command_write. -/
def commandWriteRow : Row :=
  { pattern := [0x55, 0xAA, 0x00, 0x00, 0xFE, 0x00, 0x01, 0x00, 0xFF, 0xFF, 0x01, 0x00, 0x00, 0x00, 0x00, 0x00, 0x00, 0x00]
    mask := shapeMask }

/-- BUILD.command_read. -/
def commandReadRow : Row :=
  { pattern := [0x55, 0xAA, 0x00, 0x00, 0xFE, 0x00, 0x01, 0x00, 0xFF, 0xFF, 0x00, 0x00, 0x00, 0x00, 0x00, 0x00, 0x00, 0x00]
    mask := shapeMask }

/-- BUILD.response_write. -/
def responseWriteRow : Row :=
  { pattern := [0xAA, 0x55, 0x00, 0x00, 0xFE, 0x00, 0x01, 0x00, 0x00, 0x00, 0x01, 0x00, 0x00, 0x00, 0x00, 0x00, 0x00, 0x00]
    mask := shapeMask }

/-- BUILD.response_read. -/
def responseReadRow : Row :=
  { pattern := [0xAA, 0x55, 0x00, 0x00, 0xFE, 0x00, 0x01, 0x00, 0x00, 0x00, 0x00, 0x00, 0x00, 0x00, 0x00, 0x00, 0x00, 0x00]
    mask := shapeMask }

/-- SETBRT: `F[12..17] = 01 00 00 02 01 00`. -/
def setbrtRow : Row :=
  { pattern := [0x55, 0xAA, 0x00, 0x00, 0xFE, 0x00, 0x01, 0x00, 0xFF, 0xFF, 0x01, 0x00, 0x01, 0x00, 0x00, 0x02, 0x01, 0x00]
    mask := clientMask }

/-- SHOWPAT: `F[12..17] = 01 01 00 02 01 00`. -/
def showpatRow : Row :=
  { pattern := [0x55, 0xAA, 0x00, 0x00, 0xFE, 0x00, 0x01, 0x00, 0xFF, 0xFF, 0x01, 0x00, 0x01, 0x01, 0x00, 0x02, 0x01, 0x00]
    mask := clientMask }

/-- Why a byte sequence is not read as a frame of the block: it holds a value the block never emits (R48, R58). -/
inductive DecodeError where
  /-- Fewer than the 20 bytes of a frame with an empty payload (R46). -/
  | tooShort
  /-- Neither `55 AA` nor `AA 55` at offsets 0 and 1 (R68). -/
  | badMarker
  /-- Not `FE` at offset 4 (R71). -/
  | badSource
  /-- Not `00` at offset 5 (R72). -/
  | badDestination
  /-- Not `01` at offset 6 (R73). -/
  | badDeviceClass
  /-- Not the board address that goes with the marker at offsets 8 and 9 (R48, R75). -/
  | badBoard
  /-- Neither `00` nor `01` at offset 10 (R76). -/
  | badDirection
  /-- Not `00` at offset 11 (R77). -/
  | badReserved
  /-- Not `00` at offset 17 (R79). -/
  | badLengthHigh
  deriving DecidableEq, Repr

/-- The first field, in frame order, that no frame of the block can hold. -/
def rejection (frame : List Byte) : DecodeError :=
  let command := byteAt frame 0 == 0x55 && byteAt frame 1 == 0xAA
  let response := byteAt frame 0 == 0xAA && byteAt frame 1 == 0x55
  let board : Byte := if command then 0xFF else 0x00
  if !(command || response) then .badMarker
  else if byteAt frame 4 != 0xFE then .badSource
  else if byteAt frame 5 != 0x00 then .badDestination
  else if byteAt frame 6 != 0x01 then .badDeviceClass
  else if byteAt frame 8 != board || byteAt frame 9 != board then .badBoard
  else if byteAt frame 10 != 0x00 && byteAt frame 10 != 0x01 then .badDirection
  else if byteAt frame 11 != 0x00 then .badReserved
  else .badLengthHigh

/-- The `sequence` operand a frame was built from, `F[3]` (R70). -/
def sequenceOf (frame : List Byte) : Int := intOfByte (byteAt frame 3)

/-- The `ack` operand, `F[2]` (R69). -/
def ackOf (frame : List Byte) : Int := intOfByte (byteAt frame 2)

/-- The 1-based `port` operand, `F[7] + 1` (R74). -/
def portOf (frame : List Byte) : Int := intOfByte (byteAt frame 7) + 1

/-- The `register_address` operand, `F[12..15]` little-endian (R78). -/
def registerOf (frame : List Byte) : Int :=
  (littleEndianValue [byteAt frame 12, byteAt frame 13, byteAt frame 14, byteAt frame 15] : Int)

/-- The declared length as far as a frame carries it, `F[16]` (R79). -/
def lengthOf (frame : List Byte) : Int := intOfByte (byteAt frame 16)

/-- The payload bytes, offsets 18 to 17 + N where the whole frame has 20 + N bytes (R46, R81). -/
def payloadOf (frame : List Byte) : List Int :=
  ((frame.drop headerLength).take (frame.length - frameOverhead)).map intOfByte

/-- The command whose frame this is: the most specific row of the table it belongs to.  A frame of the client rows is read as a
client command only if it has the 21 bytes those commands emit (R95).  The checksum bytes are not looked at: they are "not part
of match/mask", and the block never checks a checksum (R88). -/
def decode (frame : List Byte) : Except DecodeError Instr :=
  if frame.length < frameOverhead then .error .tooShort
  else if setbrtRow.covers frame && frame.length == frameOverhead + 1 then
    .ok (.setbrt (intOfByte (byteAt frame headerLength)))
  else if showpatRow.covers frame && frame.length == frameOverhead + 1 then
    .ok (.showpat (intOfByte (byteAt frame headerLength)))
  else if commandWriteRow.covers frame then
    .ok (.buildCommandWrite (sequenceOf frame) (registerOf frame) (lengthOf frame) (payloadOf frame) (portOf frame) (ackOf frame))
  else if commandReadRow.covers frame then
    .ok (.buildCommandRead (sequenceOf frame) (registerOf frame) (lengthOf frame) (payloadOf frame) (portOf frame) (ackOf frame))
  else if responseWriteRow.covers frame then
    .ok (.buildResponseWrite (sequenceOf frame) (registerOf frame) (lengthOf frame) (payloadOf frame) (portOf frame) (ackOf frame))
  else if responseReadRow.covers frame then
    .ok (.buildResponseRead (sequenceOf frame) (registerOf frame) (lengthOf frame) (payloadOf frame) (portOf frame) (ackOf frame))
  else .error (rejection frame)

/-- The length a receiver can compute from a frame's own bytes, `20 + F[16]` (R49). -/
def receiverLength (frame : List Byte) : Nat := frameOverhead + (byteAt frame 16).toNat

/-! ### The encoder: the table of R46, field by field -/

/-- Everything before the checksum, offsets 0 to 17 + N, by the field table of R46. -/
def layoutBody (o : BuildOperands) : List Byte :=
  List.flatten
    [ if o.isCommand then [0x55, 0xAA] else [0xAA, 0x55],
      [byteOfInt o.ack],
      [byteOfInt o.sequence],
      [0xFE],
      [0x00],
      [0x01],
      [byteOfInt (o.port - 1)],
      if o.isCommand then [0xFF, 0xFF] else [0x00, 0x00],
      [if o.isWrite then 0x01 else 0x00],
      [0x00],
      littleEndian 4 o.registerAddress.toNat,
      littleEndian 2 (o.payloadLength.toNat % 256),
      o.payload.map byteOfInt ]

/-- The whole frame of R46: the body, then C little-endian. -/
def layoutFrame (o : BuildOperands) : List Byte :=
  layoutBody o ++ littleEndian 2 (checksum (layoutBody o)).toNat

/-- The frame of a BUILD whose operands fit their fields; none where the wire has no room for an operand (R99). -/
def encodeBuild (o : BuildOperands) : Option (List Byte) :=
  if o.Fits then some (layoutFrame o) else none

/-- The frame of a command when SEQ and PORT hold the given values (only SETBRT and SHOWPAT read them, R61).  CONSTRUCT and
CHECKSUM emit no frame of their own (R57). -/
def encodeWith (seq : Byte) (port : Int) : Instr → Option (List Byte)
  | .build sequence registerAddress payloadLength payload bport isCommand isWrite ack =>
    encodeBuild ⟨sequence, registerAddress, payloadLength, payload, bport, isCommand, isWrite, ack⟩
  | .buildCommandWrite sequence registerAddress payloadLength payload bport ack =>
    encodeBuild ⟨sequence, registerAddress, payloadLength, payload, bport, true, true, ack⟩
  | .buildCommandRead sequence registerAddress payloadLength payload bport ack =>
    encodeBuild ⟨sequence, registerAddress, payloadLength, payload, bport, true, false, ack⟩
  | .buildResponseWrite sequence registerAddress payloadLength payload bport ack =>
    encodeBuild ⟨sequence, registerAddress, payloadLength, payload, bport, false, true, ack⟩
  | .buildResponseRead sequence registerAddress payloadLength payload bport ack =>
    encodeBuild ⟨sequence, registerAddress, payloadLength, payload, bport, false, false, ack⟩
  | .setbrt level =>
    encodeBuild ⟨intOfByte seq, brightnessRegister, 1, [level], port, true, true, 0⟩
  | .showpat patternCode =>
    if 1 ≤ patternCode ∧ patternCode ≤ 9 then
      encodeBuild ⟨intOfByte seq, patternRegister, 1, [patternCode], port, true, true, 0⟩
    else none
  | .construct _ _ => none
  | .checksum _ => none

/-- The words of a command: its frame with the zeros the table's match writes where SEQ and PORT - 1 stand. -/
def encode (i : Instr) : Option (List Byte) := encodeWith 0 1 i

/-- The client command whose frame a command-write BUILD with these operands emits, if there is one (R57, R61). -/
def clientOnWire (registerAddress payloadLength : Int) (payload : List Int) (ack : Int) : Option Instr :=
  match payload with
  | [v] =>
    if payloadLength = 1 ∧ ack = 0 ∧ registerAddress = brightnessRegister then some (.setbrt v)
    else if payloadLength = 1 ∧ ack = 0 ∧ registerAddress = patternRegister then some (.showpat v)
    else none
  | _ => none

/-- What a frame of this BUILD is read back as: the row of its shape, the declared length modulo 256 (R79), and the client
command where the frame is the one that command emits. -/
def BuildOperands.onWire (o : BuildOperands) : Instr :=
  let len := o.payloadLength % 256
  match o.isCommand, o.isWrite with
  | true, true =>
    (clientOnWire o.registerAddress len o.payload o.ack).getD
      (.buildCommandWrite o.sequence o.registerAddress len o.payload o.port o.ack)
  | true, false => .buildCommandRead o.sequence o.registerAddress len o.payload o.port o.ack
  | false, true => .buildResponseWrite o.sequence o.registerAddress len o.payload o.port o.ack
  | false, false => .buildResponseRead o.sequence o.registerAddress len o.payload o.port o.ack

/-- The command a frame of `i` is read back as.  The rows overlap (BUILD holds its four shapes, command-write holds the two
client rows), and the length field drops bits 15 to 8, so this is not always `i` itself. -/
def Instr.onWire : Instr → Instr
  | .build sequence registerAddress payloadLength payload port isCommand isWrite ack =>
    BuildOperands.onWire ⟨sequence, registerAddress, payloadLength, payload, port, isCommand, isWrite, ack⟩
  | .buildCommandWrite sequence registerAddress payloadLength payload port ack =>
    BuildOperands.onWire ⟨sequence, registerAddress, payloadLength, payload, port, true, true, ack⟩
  | .buildCommandRead sequence registerAddress payloadLength payload port ack =>
    BuildOperands.onWire ⟨sequence, registerAddress, payloadLength, payload, port, true, false, ack⟩
  | .buildResponseWrite sequence registerAddress payloadLength payload port ack =>
    BuildOperands.onWire ⟨sequence, registerAddress, payloadLength, payload, port, false, true, ack⟩
  | .buildResponseRead sequence registerAddress payloadLength payload port ack =>
    BuildOperands.onWire ⟨sequence, registerAddress, payloadLength, payload, port, false, false, ack⟩
  | .setbrt level => .setbrt level
  | .showpat patternCode => .showpat patternCode
  | .construct portInit transport => .construct portInit transport
  | .checksum frame => .checksum frame

/-! ### The table's words -/

/-- A word of the opcode table as a frame: `F[0]` in bits 7 to 0, `F[1]` in bits 15 to 8 and so on, with zero bytes above the
table's bits up to the length the frame declares, `20 + F[16]` (R49). -/
def tableFrame (nbits w : Nat) : List Byte :=
  littleEndian (max (nbits / 8) (frameOverhead + bitSlice w 135 128)) (w % 2 ^ nbits)

/-- The instruction the decoder reads from a word of the opcode table. -/
def decodeTableWord (nbits w : Nat) : Option Instr :=
  (decode (tableFrame nbits w)).toOption

end Sys2Proof
end

