-- ==== Sys2Proof/Machine/State.lean ====
section
/-! DEFINITION. The state of one block instance (R13), the outcomes it delivers (R98), the transport as its environment
(R17, R102), the reasons a step can stop, and the state after reset (R25). -/

namespace Sys2Proof.Machine

/-- The operand a validation error names (R100). -/
inductive Field where
  | sequence | port | registerAddress | payloadLength | payload | ack | level | patternCode
  deriving DecidableEq, Repr

/-- How a command ends (R98).  Delivered to the host once and not stored in the block. -/
inductive CommandOutcome where
  /-- SETBRT, SHOWPAT or CONSTRUCT ended with Ok. -/
  | ok
  /-- BUILD ended with a frame, which goes back to the host (R39). -/
  | frame (bytes : List Byte)
  /-- ValidationError(field) (R100). -/
  | validationError (field : Field)
  /-- TransportError(e), e passed on unchanged (R102). -/
  | transportError (e : Nat)
  /-- The result of the sub-operation CHECKSUM, for its caller BUILD (R83).  No step delivers one: a host cannot present it. -/
  | checksum (value : Word16)
  deriving DecidableEq, Repr

/-- What the transport's write returns (R102).  An input from the environment. -/
inductive TransportReply where
  /-- The write returned; whatever it returned "is not looked at" and counts as Ok. -/
  | returned (result : Nat)
  /-- The write signalled the failure e, an opaque value (a label, log 5). -/
  | failed (e : Nat)
  deriving DecidableEq, Repr

/-- One `TransportWrite`: the whole frame, and the transport it was handed to (R37, R39). -/
structure Handed where
  transport : Nat
  frame : List Byte
  deriving DecidableEq, Repr

/-- Whether a client command is in progress.  "A client command does not return until the transport's write returns" (R121). -/
inductive Phase where
  /-- The block accepts a command. -/
  | idle
  /-- A frame has been handed over and the transport's write has not returned. -/
  | writing
  deriving DecidableEq, Repr

/-- One block instance and its interfaces.  `seq` and `port` are its registers (R13); `constructed`, `transport` and `phase` are
the binding and the progress of a client command (R17, R96, R121); `params` are the OPEN parameters (R7).  The last four fields
are the model's own record of the block's interfaces: `presented` and `replies` are inputs not yet taken, `handed` and
`delivered` outputs already made, oldest first; no rule reads the outputs. -/
structure State where
  params : Params
  /-- CONSTRUCT has happened (R91, R96). -/
  constructed : Bool
  /-- SEQ (R15). -/
  seq : Byte
  /-- PORT, stored as it was given (R16). -/
  port : Int
  /-- The label of the transport bound at construction (R17). -/
  transport : Nat
  phase : Phase
  /-- Commands the host presents, in its order (R19, R41). -/
  presented : List Instr
  /-- What the transport's writes return, in order; empty while the write has not returned. -/
  replies : List TransportReply
  /-- The frames handed to the transport (R41). -/
  handed : List Handed
  /-- The outcomes delivered to the host (R98). -/
  delivered : List CommandOutcome
  deriving DecidableEq, Repr

/-- Why the machine stops with a fault: never.  "After any outcome the block is ready for the next command" (R105): both kinds of
error are outcomes of a command, and the spec names nothing that stops the block. -/
inductive Fault
  deriving DecidableEq, Repr

/-- Why the model gives a step no meaning. -/
inductive Refusal where
  /-- Raised by an arm of exec whose instruction has no meaning yet: by none.  Safe. -/
  | notModelled (mnemonic : String)
  /-- Raised by a command carried out while another one is in progress: "a model gives such a run no meaning (it refuses it)"
  (R118, U6).  Steps never raise it.  Safe. -/
  | commandInProgress
  /-- Raised by SETBRT and SHOWPAT before CONSTRUCT: "CONSTRUCT precedes all" (R96).  Safe. -/
  | notConstructed
  /-- Raised by CONSTRUCT on a constructed client: "refuse: reset is given only at the start of a run" (U13, R116).  Safe. -/
  | alreadyConstructed
  /-- Raised by a step whose host presents CHECKSUM: it "is not a command the host can present on its own" (R83).  Safe. -/
  | notPresentable
  deriving DecidableEq, Repr

/-- The three outcomes of a command or a step of this machine. -/
abbrev Result := Host.Outcome State Fault Refusal

/-- The block before CONSTRUCT: no register holds a value a command can read. -/
def State.unconstructed (params : Params) : State :=
  { params := params, constructed := false, seq := 0, port := 0, transport := 0, phase := .idle
    presented := [], replies := [], handed := [], delivered := [] }

/-- What construction leaves (R25, R91): SEQ = 0, PORT = PORT_INIT, the transport bound, nothing in progress and no outcome
pending. -/
def State.resetWith (params : Params) (portInit : Int) (transport : Nat) : State :=
  { params := params, constructed := true, seq := 0, port := portInit, transport := transport, phase := .idle
    presented := [], replies := [], handed := [], delivered := [] }

/-- The machine right after reset, which is construction (R25, R115). -/
def State.reset : State := State.resetWith Config.openParams Config.portInit Config.transportInit

end Sys2Proof.Machine
end

