-- ==== Sys2Proof/Machine/Operands.lean ====
section
/-! DEFINITION. Operands: the range checks, their order and their cause codes (R100), and the four operands that are transformed
on their way into the frame (R56). -/

namespace Sys2Proof.Machine

/-- The cause code of a validation error (R100). -/
def Field.code : Field → Nat
  | .sequence => 1
  | .port => 2
  | .registerAddress => 3
  | .payloadLength => 4
  | .payload => 5
  | .ack => 6
  | .level => 7
  | .patternCode => 8

/-- The numeric code of an error outcome: 1 to 8 by field (R100), 16 for a transport error (R102). -/
def CommandOutcome.code : CommandOutcome → Option Nat
  | .ok => none
  | .frame _ => none
  | .validationError f => some f.code
  | .transportError _ => some 16
  | .checksum _ => none

/-- The value lies outside a closed range. -/
def outside (lo hi v : Int) : Bool := decide (v < lo) || decide (hi < v)

/-- One row of the table of R100: a field and whether its condition raises. -/
abbrev RangeCheck := Field × Bool

/-- "A command performs the checks of its row group in the order listed, top to bottom, and ends with the first one that
fails" (R100). -/
def firstFailing : List RangeCheck → Option Field
  | [] => none
  | (field, bad) :: rest => if bad then some field else firstFailing rest

/-- The six rows of BUILD, in order (R100). -/
def buildChecks (pmax : Nat) (o : BuildOperands) : List RangeCheck :=
  [ (.sequence, outside 0 255 o.sequence),
    (.port, outside 1 256 o.port),
    (.registerAddress, outside 0 0xFFFFFFFF o.registerAddress),
    (.payloadLength, outside 0 65535 o.payloadLength),
    (.payload, decide (pmax < o.payload.length) || o.payload.any (outside 0 255)),
    (.ack, outside 0 255 o.ack) ]

/-- Validate_BUILD: the field that fails first, if one does (R64, R100). -/
def validateBuild (pmax : Nat) (o : BuildOperands) : Option Field := firstFailing (buildChecks pmax o)

/-- SETBRT's own check (R92). -/
def levelCheck (level : Int) : RangeCheck := (.level, outside 0 255 level)

/-- SHOWPAT's own check (R93). -/
def patternCheck (patternCode : Int) : RangeCheck := (.patternCode, outside 1 9 patternCode)

/-- `port - 1` (R56, R74). -/
def portIndex (port : Int) : Byte := byteOfInt (port - 1)

/-- `register_address[8i+7:8i]` (R56, R78). -/
def addressByte (registerAddress : Int) (i : Nat) : Byte :=
  byteOfNat (bitSlice registerAddress.toNat (8 * i + 7) (8 * i))

/-- `payload_length & 0xFF` (R56, R79). -/
def lengthLow (payloadLength : Int) : Byte := byteOfNat (payloadLength.toNat &&& 0xFF)

/-- `(payload_length & 0xFF) >> 8`, the masking the wire contract preserves (R56, R79). -/
def lengthHigh (payloadLength : Int) : Byte := byteOfNat ((payloadLength.toNat &&& 0xFF) >>> 8)

end Sys2Proof.Machine
end

