-- ==== Sys2Proof/Machine/Ops.lean ====
section
/-! DEFINITION. The shared operations: emitting a frame (R64), delivering an outcome and ending a command with an error (R104),
writing to the transport and its return (R39, R102), and the update of SEQ (R94). -/

namespace Sys2Proof.Machine

/-! ### Emission -/

/-- `Emit(b)` "appends the byte b to the frame under construction" (R11). -/
def emit (frame : List Byte) (b : Byte) : List Byte := frame ++ [b]

/-- The marker (R68). -/
def emitMarker (isCommand : Bool) (frame : List Byte) : List Byte :=
  if isCommand then emit (emit frame 0x55) 0xAA else emit (emit frame 0xAA) 0x55

/-- The fixed source, destination and device class (R71, R72, R73). -/
def emitFixed (frame : List Byte) : List Byte :=
  emit (emit (emit frame sourceAddress) destinationAddress) deviceClass

/-- The board address (R75). -/
def emitBoard (isCommand : Bool) (frame : List Byte) : List Byte :=
  if isCommand then emit (emit frame 0xFF) 0xFF else emit (emit frame 0x00) 0x00

/-- The direction code (R76). -/
def emitDirection (isWrite : Bool) (frame : List Byte) : List Byte :=
  if isWrite then emit frame 0x01 else emit frame 0x00

/-- The register address, least significant byte first (R78). -/
def emitAddress (registerAddress : Int) (frame : List Byte) : List Byte :=
  (List.range 4).foldl (fun f i => emit f (addressByte registerAddress i)) frame

/-- The data length (R79). -/
def emitLength (payloadLength : Int) (frame : List Byte) : List Byte :=
  emit (emit frame (lengthLow payloadLength)) (lengthHigh payloadLength)

/-- The payload bytes in order (R81). -/
def emitPayload (payload : List Int) (frame : List Byte) : List Byte :=
  payload.foldl (fun f b => emit f (byteOfInt b)) frame

/-- The checksum of everything emitted, low byte first (R82). -/
def emitChecksum (frame : List Byte) : List Byte :=
  let c := checksum frame
  emit (emit frame (lowByte c)) (highByte c)

/-- The header, offsets 0 to 17, in the order of the document's algorithm (R64). -/
def emitHeader (o : BuildOperands) : List Byte :=
  let f := emitMarker o.isCommand []
  let f := emit f (byteOfInt o.ack)
  let f := emit f (byteOfInt o.sequence)
  let f := emitFixed f
  let f := emit f (portIndex o.port)
  let f := emitBoard o.isCommand f
  let f := emitDirection o.isWrite f
  let f := emit f reservedByte
  let f := emitAddress o.registerAddress f
  emitLength o.payloadLength f

/-- The emission steps of BUILD, for checked operands (R64). -/
def emitFrame (o : BuildOperands) : List Byte := emitChecksum (emitPayload o.payload (emitHeader o))

/-- BUILD as the function it is: a frame, or the field that fails first (R64, R65). -/
def buildFrame (pmax : Nat) (o : BuildOperands) : Except Field (List Byte) :=
  match validateBuild pmax o with
  | some field => .error field
  | none => .ok (emitFrame o)

/-! ### Outcomes -/

/-- The outcome "is delivered to the host with the completion of the command and is not stored in the block" (R98). -/
def deliver (o : CommandOutcome) (s : State) : State := { s with delivered := s.delivered ++ [o] }

/-- `raise ValidationError(field)`: "ends the operation with the named outcome, with no frame and no state change" (R11, R104). -/
def raiseValidation (field : Field) (s : State) : State := deliver (.validationError field) s

/-- TransportError(e): SEQ and PORT keep their values, and e goes to the host unchanged (R102, R104). -/
def raiseTransport (e : Nat) (s : State) : State := deliver (.transportError e) s

/-! ### Registers -/

/-- SeqUpdate, "the only writer of SEQ": `SEQ <- (SEQ + 1) mod 256` when SEQ_INC is true, nothing otherwise (R94). -/
def seqUpdate (s : State) : State :=
  { s with seq := bif s.params.seqInc then s.seq + 1 else s.seq }

/-- The register writes of CONSTRUCT (R91). -/
def bindClient (portInit : Int) (transport : Nat) (s : State) : State :=
  { s with constructed := true, seq := 0, port := portInit, transport := transport }

/-! ### The transport -/

/-- `TransportWrite(F)` "hands the whole frame F to the transport in one call" (R11, R37); the command is now in progress. -/
def transportWrite (frame : List Byte) (s : State) : State :=
  { s with handed := s.handed ++ [⟨s.transport, frame⟩], phase := .writing }

/-- The write is over: its reply is taken and no command is in progress. -/
def endWrite (rest : List TransportReply) (s : State) : State := { s with replies := rest, phase := .idle }

/-- The transport's return (R92, R93, R102).  While it has not returned the command blocks (R121, U7); Ok runs SeqUpdate and ends
the command; a signalled failure ends it at once. -/
def transportReturn (s : State) : State :=
  match s.replies with
  | [] => s
  | .returned _ :: rest => deliver .ok (seqUpdate (endWrite rest s))
  | .failed e :: rest => raiseTransport e (endWrite rest s)

/-! ### Acceptance -/

/-- "the block does not accept a new command until the previous one has returned its outcome" (R118). -/
def whenIdle (s : State) (body : Result) : Result :=
  match s.phase with
  | .idle => body
  | .writing => .refused .commandInProgress

/-- "CONSTRUCT precedes all" client commands (R96). -/
def whenConstructed (s : State) (body : Result) : Result :=
  match s.constructed with
  | true => body
  | false => .refused .notConstructed

/-- BUILD presented by the host: the frame or the error goes back to the host, nothing else changes (R39, R65). -/
def runBuild (o : BuildOperands) (s : State) : Result :=
  whenIdle s
    (.next (match buildFrame s.params.pmax o with
      | .error field => raiseValidation field s
      | .ok frame => deliver (.frame frame) s))

/-- The BUILD that a client command expands to (R61). -/
def clientOperands (registerAddress value : Int) (s : State) : BuildOperands :=
  { sequence := intOfByte s.seq, registerAddress := registerAddress, payloadLength := 1, payload := [value]
    port := s.port, isCommand := true, isWrite := true, ack := 0 }

/-- A client command: its own check, one BUILD, one `TransportWrite`, and the transport's return if it is there (R92, R93). -/
def runClient (own : RangeCheck) (registerAddress value : Int) (s : State) : Result :=
  whenIdle s (whenConstructed s
    (.next (match firstFailing [own] with
      | some field => raiseValidation field s
      | none =>
        match buildFrame s.params.pmax (clientOperands registerAddress value s) with
        | .error field => raiseValidation field s
        | .ok frame => transportReturn (transportWrite frame s))))

end Sys2Proof.Machine
end

