-- ==== Sys2Proof/Machine/Build.lean ====
section
/-! DEFINITION. The meanings of BUILD, its four frame shapes (R57, R64) and its sub-operation CHECKSUM (R83). -/

namespace Sys2Proof.Machine

/-- BUILD (R64). -/
def execBuild (sequence registerAddress payloadLength : Int) (payload : List Int) (port : Int) (isCommand isWrite : Bool)
    (ack : Int) (s : State) : Result :=
  runBuild ⟨sequence, registerAddress, payloadLength, payload, port, isCommand, isWrite, ack⟩ s

/-- BUILD.command_write (R57). -/
def execBuildCommandWrite (sequence registerAddress payloadLength : Int) (payload : List Int) (port ack : Int)
    (s : State) : Result :=
  runBuild ⟨sequence, registerAddress, payloadLength, payload, port, true, true, ack⟩ s

/-- BUILD.command_read (R57). -/
def execBuildCommandRead (sequence registerAddress payloadLength : Int) (payload : List Int) (port ack : Int)
    (s : State) : Result :=
  runBuild ⟨sequence, registerAddress, payloadLength, payload, port, true, false, ack⟩ s

/-- BUILD.response_write (R57). -/
def execBuildResponseWrite (sequence registerAddress payloadLength : Int) (payload : List Int) (port ack : Int)
    (s : State) : Result :=
  runBuild ⟨sequence, registerAddress, payloadLength, payload, port, false, true, ack⟩ s

/-- BUILD.response_read (R57). -/
def execBuildResponseRead (sequence registerAddress payloadLength : Int) (payload : List Int) (port ack : Int)
    (s : State) : Result :=
  runBuild ⟨sequence, registerAddress, payloadLength, payload, port, false, false, ack⟩ s

/-- CHECKSUM, total, with its result for the caller and no other effect (R83). -/
def execChecksum (frame : List Byte) (s : State) : Result := .next (deliver (.checksum (checksum frame)) s)

end Sys2Proof.Machine
end

