-- ==== Sys2Proof/Machine/Client.lean ====
section
/-! DEFINITION. The meanings of the client register layer: CONSTRUCT (R91), SETBRT (R92) and SHOWPAT (R93). -/

namespace Sys2Proof.Machine

/-- SETBRT (R92). -/
def execSetbrt (level : Int) (s : State) : Result := runClient (levelCheck level) brightnessRegister level s

/-- SHOWPAT (R93). -/
def execShowpat (patternCode : Int) (s : State) : Result :=
  runClient (patternCheck patternCode) patternRegister patternCode s

/-- CONSTRUCT (R91): PORT_INIT is stored unchecked, SEQ is cleared, the transport is bound, and the outcome is always Ok (R98).
It "happens once per block instance". -/
def execConstruct (portInit : Int) (transport : Nat) (s : State) : Result :=
  whenIdle s
    (match s.constructed with
      | true => .refused .alreadyConstructed
      | false => .next (deliver .ok (bindClient portInit transport s)))

end Sys2Proof.Machine
end

