-- ==== Sys2Proof/Machine/Dispatch.lean ====
section
/-! DEFINITION. One arm per row of spec/opcode_table.json. -/

namespace Sys2Proof.Machine

def exec (i : Instr) (s : State) : Host.Outcome State Fault Refusal :=
  match i with
  -- BUILD and its shapes
  | .build sequence registerAddress payloadLength payload port isCommand isWrite ack => Sys2Proof.Machine.execBuild sequence registerAddress payloadLength payload port isCommand isWrite ack s
  | .buildCommandWrite sequence registerAddress payloadLength payload port ack => Sys2Proof.Machine.execBuildCommandWrite sequence registerAddress payloadLength payload port ack s
  | .buildCommandRead sequence registerAddress payloadLength payload port ack => Sys2Proof.Machine.execBuildCommandRead sequence registerAddress payloadLength payload port ack s
  | .buildResponseWrite sequence registerAddress payloadLength payload port ack => Sys2Proof.Machine.execBuildResponseWrite sequence registerAddress payloadLength payload port ack s
  | .buildResponseRead sequence registerAddress payloadLength payload port ack => Sys2Proof.Machine.execBuildResponseRead sequence registerAddress payloadLength payload port ack s
  -- the client register layer
  | .setbrt level => Sys2Proof.Machine.execSetbrt level s
  | .showpat patternCode => Sys2Proof.Machine.execShowpat patternCode s
  | .construct portInit transport => Sys2Proof.Machine.execConstruct portInit transport s
  -- the sub-operation of BUILD
  | .checksum frame => Sys2Proof.Machine.execChecksum frame s

end Sys2Proof.Machine
end

