-- ==== Sys2Proof/Machine/Step.lean ====
section
/-! DEFINITION. One event of the block: "The only events the block reacts to are the host's commands and the return of the
transport's write" (R106).  There is no program counter and no stored program (R19): the next command is the next one the host
presents. -/

namespace Sys2Proof.Machine

/-- The host's next command is no longer waiting: it has been accepted, its operands sampled (R44). -/
def State.takeCommand (rest : List Instr) (s : State) : State := { s with presented := rest }

/-- One event.  A command in progress waits for the transport's return; an idle block takes the next command the host presents,
and with none presented nothing happens. -/
def step (s : State) : Host.Outcome State Fault Refusal :=
  match s.phase with
  | .writing => .next (transportReturn s)
  | .idle =>
    match s.presented with
    | [] => .next s
    | i :: rest => if i.presentable then exec i (s.takeCommand rest) else .refused .notPresentable

/-- The host presents a command to an idle block ahead of any other, so that the next step runs it. -/
def State.present (i : Instr) (s : State) : State := { s with phase := .idle, presented := i :: s.presented }

/-- The host presents the command whose frame the opcode table's word is (commands are not fetched from a memory, R26). -/
def State.withFetchWord (s : State) (nbits w : Nat) : State :=
  match decodeTableWord nbits w with
  | some i => s.present i
  | none => s

end Sys2Proof.Machine
end

