-- ==== Sys2Proof/Safety.lean ====
section
/-! DEFINITION. What a safe run is: every frame that leaves the block is one the rules describe, and the registers keep what the
spec promises of them. -/

namespace Sys2Proof

open Sys2Proof.Machine

/-- A finished frame of BUILD: at least 20 bytes (R46), of one of the four shapes (R57), with a checksum that holds (R88). -/
def isFrame (frame : List Byte) : Bool :=
  decide (frameOverhead ≤ frame.length) &&
    (commandWriteRow.covers frame || commandReadRow.covers frame || responseWriteRow.covers frame ||
      responseReadRow.covers frame) &&
    checksumHolds frame

/-- A frame a client command may hand over: 21 bytes (R95) of the row of SETBRT, or of SHOWPAT with a pattern code 1 to 9, with a
checksum that holds. -/
def isClientFrame (frame : List Byte) : Bool :=
  decide (frame.length = 21) && checksumHolds frame &&
    (setbrtRow.covers frame ||
      (showpatRow.covers frame && decide (1 ≤ (byteAt frame 18).toNat ∧ (byteAt frame 18).toNat ≤ 9)))

/-- What holds of an outcome the host can be given: a frame is a frame of the block, and no bare checksum is delivered (R83). -/
def CommandOutcome.proper : CommandOutcome → Bool
  | .ok => true
  | .frame bytes => isFrame bytes
  | .validationError _ => true
  | .transportError _ => true
  | .checksum _ => false

/-- The invariant of the block.  The parameters are legal (R7); every frame handed over went to the bound transport and is a
client command's frame that carries the one PORT of the block (R16, R95); every outcome is proper; with SEQ_INC = false SEQ is 0
and every frame carries sequence number 0 (R15); before construction nothing has been handed over or is in progress (R96); and a
command in progress has handed a frame over (R121). -/
structure Machine.State.Inv (s : State) : Prop where
  params_legal : s.params.legal = true
  handed_client : ∀ h ∈ s.handed, isClientFrame h.frame = true ∧ h.transport = s.transport ∧
    (byteAt h.frame 7).toNat + 1 = s.port
  delivered_proper : ∀ o ∈ s.delivered, CommandOutcome.proper o = true
  seq_fixed : s.params.seqInc = false → s.seq = 0 ∧ ∀ h ∈ s.handed, byteAt h.frame 3 = 0
  nothing_before_construct : s.constructed = false → s.handed = [] ∧ s.phase = .idle
  writing_handed : s.phase = .writing → s.handed ≠ []

end Sys2Proof
end

