-- ==== Sys2Proof/Certificates/Slice0/Obligations.lean ====
section
/-! DEFINITION. The statements for the provers, from the numbered rules of spec/.  `Claims` holds the spec's own description of a
frame (literal bytes, exact integer arithmetic) that the statements compare the machine with. -/

open Sys2Proof Sys2Proof.Machine

namespace Sys2Proof.Claims

/-- The 18 header bytes of the field table (R46), the declared length masked (R79). -/
def headerBytes (o : BuildOperands) : List Byte :=
  [ if o.isCommand then 0x55 else 0xAA, if o.isCommand then 0xAA else 0x55,
    BitVec.ofInt 8 o.ack, BitVec.ofInt 8 o.sequence, 0xFE, 0x00, 0x01, BitVec.ofInt 8 (o.port - 1),
    if o.isCommand then 0xFF else 0x00, if o.isCommand then 0xFF else 0x00,
    if o.isWrite then 0x01 else 0x00, 0x00,
    BitVec.ofInt 8 (o.registerAddress % 256), BitVec.ofInt 8 (o.registerAddress / 0x100 % 256),
    BitVec.ofInt 8 (o.registerAddress / 0x10000 % 256), BitVec.ofInt 8 (o.registerAddress / 0x1000000 % 256),
    BitVec.ofInt 8 (o.payloadLength % 256), 0x00 ]

/-- The exact sum of the bytes from offset 3 on (R83). -/
def sumFrom3 (bytes : List Byte) : Nat := ((bytes.drop 3).map BitVec.toNat).sum

/-- `C = (S + 0x5555) mod 65536` (R83). -/
def checksumOf (bytes : List Byte) : Nat := (sumFrom3 bytes + 0x5555) % 65536

/-- The bytes at offsets 0 to 17 + N (R46). -/
def bodyBytes (o : BuildOperands) : List Byte := headerBytes o ++ o.payload.map (BitVec.ofInt 8)

/-- The whole frame: `C[7:0]`, then `C[15:8]`, after the body (R46, R82). -/
def frameBytes (o : BuildOperands) : List Byte :=
  bodyBytes o ++ [BitVec.ofNat 8 (checksumOf (bodyBytes o) % 256), BitVec.ofNat 8 (checksumOf (bodyBytes o) / 256)]

/-- The frame of R92: `55 AA 00 ss FE 00 01 pp FF FF 01 00 01 00 00 02 01 00 vv c0 c1`. -/
def setbrtBytes (seq : Byte) (port level : Int) : List Byte :=
  let c : Int := 0x5857 + seq.toNat + (port - 1) + level
  [ 0x55, 0xAA, 0x00, seq, 0xFE, 0x00, 0x01, BitVec.ofInt 8 (port - 1), 0xFF, 0xFF, 0x01, 0x00, 0x01, 0x00, 0x00, 0x02, 0x01,
    0x00, BitVec.ofInt 8 level, BitVec.ofInt 8 (c % 256), BitVec.ofInt 8 (c / 256) ]

/-- The frame of R93: `55 AA 00 ss FE 00 01 pp FF FF 01 00 01 01 00 02 01 00 vv c0 c1`. -/
def showpatBytes (seq : Byte) (port code : Int) : List Byte :=
  let c : Int := 0x5858 + seq.toNat + (port - 1) + code
  [ 0x55, 0xAA, 0x00, seq, 0xFE, 0x00, 0x01, BitVec.ofInt 8 (port - 1), 0xFF, 0xFF, 0x01, 0x00, 0x01, 0x01, 0x00, 0x02, 0x01,
    0x00, BitVec.ofInt 8 code, BitVec.ofInt 8 (c % 256), BitVec.ofInt 8 (c / 256) ]

/-- SEQ after a successful client command (R94). -/
def nextSeq (s : State) : Byte := bif s.params.seqInc then s.seq + 1 else s.seq

/-- A block that can carry a client command out to its write: constructed, idle, PORT legal, PMAX ≥ 1 (R7, R16, R96, R118). -/
structure Ready (s : State) : Prop where
  idle : s.phase = .idle
  constructed : s.constructed = true
  port_legal : 1 ≤ s.port ∧ s.port ≤ 256
  pmax_legal : 1 ≤ s.params.pmax

/-- BUILD by the name of its frame shape (R57). -/
def shape (o : BuildOperands) : Instr :=
  match o.isCommand, o.isWrite with
  | true, true => .buildCommandWrite o.sequence o.registerAddress o.payloadLength o.payload o.port o.ack
  | true, false => .buildCommandRead o.sequence o.registerAddress o.payloadLength o.payload o.port o.ack
  | false, true => .buildResponseWrite o.sequence o.registerAddress o.payloadLength o.payload o.port o.ack
  | false, false => .buildResponseRead o.sequence o.registerAddress o.payloadLength o.payload o.port o.ack

/-- The six conditions of BUILD in the order of the table of R100. -/
def buildFailure (pmax : Nat) (o : BuildOperands) : Option Field :=
  if o.sequence < 0 ∨ 255 < o.sequence then some .sequence
  else if o.port < 1 ∨ 256 < o.port then some .port
  else if o.registerAddress < 0 ∨ 0xFFFFFFFF < o.registerAddress then some .registerAddress
  else if o.payloadLength < 0 ∨ 65535 < o.payloadLength then some .payloadLength
  else if pmax < o.payload.length ∨ (∃ b ∈ o.payload, b < 0 ∨ 255 < b) then some .payload
  else if o.ack < 0 ∨ 255 < o.ack then some .ack
  else none

/-- A legal client command and the value it writes (R52). -/
def legalClient (i : Instr) (value : Int) : Prop :=
  (i = .setbrt value ∧ 0 ≤ value ∧ value ≤ 255) ∨ (i = .showpat value ∧ 1 ≤ value ∧ value ≤ 9)

/-- Any client command. -/
def isClient (i : Instr) : Prop := (∃ v, i = .setbrt v) ∨ (∃ v, i = .showpat v)

/-- Outcomes that end a `TransportWrite`: Ok and TransportError (R98). -/
def endsWrite : CommandOutcome → Bool
  | .ok => true
  | .frame _ => false
  | .validationError _ => false
  | .transportError _ => true
  | .checksum _ => false

/-- The client commands whose write has begun or ended, as the state shows them. -/
def writesSeen (s : State) : Nat :=
  (s.delivered.filter endsWrite).length + (match s.phase with | .idle => 0 | .writing => 1)

/-- The same state of a block with other operand ports. -/
def withWidths (w : OperandWidths) (s : State) : State := { s with params := { s.params with opw := w } }

end Sys2Proof.Claims

open Sys2Proof.Claims

/-! ### BUILD -/

/-- BUILD with accepted operands delivers the frame of the field table and changes nothing else (R46, R64, R65). -/
def Obligations.BuildDeliversTheFrameOfTheFieldTable : Prop :=
  ∀ (o : BuildOperands) (s : State), s.phase = .idle → o.Accepted s.params.pmax →
    exec o.toInstr s = .next { s with delivered := s.delivered ++ [.frame (frameBytes o)] }

/-- The four shapes (BUILD.command_write, BUILD.command_read, BUILD.response_write, BUILD.response_read) deliver the frame BUILD
delivers with their two Booleans, and change nothing else (R57). -/
def Obligations.BuildShapesDeliverTheirFrames : Prop :=
  (∀ (seq reg len : Int) (payload : List Int) (port ack : Int) (s : State), s.phase = .idle →
    BuildOperands.Accepted s.params.pmax ⟨seq, reg, len, payload, port, true, true, ack⟩ →
    exec (.buildCommandWrite seq reg len payload port ack) s =
      .next { s with delivered := s.delivered ++ [.frame (frameBytes ⟨seq, reg, len, payload, port, true, true, ack⟩)] }) ∧
  (∀ (seq reg len : Int) (payload : List Int) (port ack : Int) (s : State), s.phase = .idle →
    BuildOperands.Accepted s.params.pmax ⟨seq, reg, len, payload, port, true, false, ack⟩ →
    exec (.buildCommandRead seq reg len payload port ack) s =
      .next { s with delivered := s.delivered ++ [.frame (frameBytes ⟨seq, reg, len, payload, port, true, false, ack⟩)] }) ∧
  (∀ (seq reg len : Int) (payload : List Int) (port ack : Int) (s : State), s.phase = .idle →
    BuildOperands.Accepted s.params.pmax ⟨seq, reg, len, payload, port, false, true, ack⟩ →
    exec (.buildResponseWrite seq reg len payload port ack) s =
      .next { s with delivered := s.delivered ++ [.frame (frameBytes ⟨seq, reg, len, payload, port, false, true, ack⟩)] }) ∧
  (∀ (seq reg len : Int) (payload : List Int) (port ack : Int) (s : State), s.phase = .idle →
    BuildOperands.Accepted s.params.pmax ⟨seq, reg, len, payload, port, false, false, ack⟩ →
    exec (.buildResponseRead seq reg len payload port ack) s =
      .next { s with delivered := s.delivered ++ [.frame (frameBytes ⟨seq, reg, len, payload, port, false, false, ack⟩)] })

/-- BUILD is a pure function: what it delivers depends on the operands and PMAX alone, whatever else the state holds, and nothing
but the outcome changes (R65). -/
def Obligations.BuildReadsAndWritesNoState : Prop :=
  ∀ (o : BuildOperands) (pmax : Nat), ∃ r : CommandOutcome, ∀ s : State, s.phase = .idle → s.params.pmax = pmax →
    exec o.toInstr s = .next { s with delivered := s.delivered ++ [r] } ∧
    exec (shape o) s = .next { s with delivered := s.delivered ++ [r] }

/-- In-range operands give exactly 20 + N bytes: 21 for one payload byte, 20 for an absent payload (R66). -/
def Obligations.BuildLengthIsTwentyPlusN : Prop :=
  ∀ (o : BuildOperands) (s : State), s.phase = .idle → o.Accepted s.params.pmax →
    ∃ F : List Byte, exec o.toInstr s = .next { s with delivered := s.delivered ++ [.frame F] } ∧
      F.length = 20 + o.payload.length ∧ (o.payload.length = 1 → F.length = 21) ∧ (o.payload = [] → F.length = 20)

/-- In every frame any instruction delivers or hands over, the constant bytes and the joint values of the bytes tied to the two mode
operands; and which of them BUILD chooses (R48). -/
def Obligations.EveryFrameHasTheConstantBytes : Prop :=
  (∀ (i : Instr) (s t : State) (F : List Byte), exec i s = .next t →
    (t.delivered = s.delivered ++ [.frame F] ∨ ∃ h : Handed, t.handed = s.handed ++ [h] ∧ h.frame = F) →
    F[4]? = some 0xFE ∧ F[5]? = some 0x00 ∧ F[6]? = some 0x01 ∧ F[11]? = some 0x00 ∧ F[17]? = some 0x00 ∧
    ((F[0]? = some 0x55 ∧ F[1]? = some 0xAA ∧ F[8]? = some 0xFF ∧ F[9]? = some 0xFF) ∨
      (F[0]? = some 0xAA ∧ F[1]? = some 0x55 ∧ F[8]? = some 0x00 ∧ F[9]? = some 0x00)) ∧
    (F[10]? = some 0x01 ∨ F[10]? = some 0x00)) ∧
  (∀ (o : BuildOperands) (s t : State) (F : List Byte), exec o.toInstr s = .next t →
    t.delivered = s.delivered ++ [.frame F] →
    (F[0]? = some 0x55 ↔ o.isCommand = true) ∧ (F[1]? = some 0xAA ↔ o.isCommand = true) ∧
    (F[8]? = some 0xFF ↔ o.isCommand = true) ∧ (F[9]? = some 0xFF ↔ o.isCommand = true) ∧
    (F[10]? = some 0x01 ↔ o.isWrite = true))

/-- A delivered frame belongs to BUILD's row of the opcode table, to the row of its shape, and to no other shape (R57). -/
def Obligations.EveryFrameBelongsToExactlyItsShapeRow : Prop :=
  ∀ (o : BuildOperands) (s t : State) (F : List Byte), exec o.toInstr s = .next t →
    t.delivered = s.delivered ++ [.frame F] →
    buildRow.covers F = true ∧
    commandWriteRow.covers F = (o.isCommand && o.isWrite) ∧ commandReadRow.covers F = (o.isCommand && !o.isWrite) ∧
    responseWriteRow.covers F = (!o.isCommand && o.isWrite) ∧ responseReadRow.covers F = (!o.isCommand && !o.isWrite)

/-- Acknowledgement flag: `F[2] = ack`; two frames that differ only in `ack` have every other byte, the checksum among them, in
common; an `ack` outside 0 to 255 is a validation error; and a BUILD written without it has `ack` 0 (R69). -/
def Obligations.AckIsByteTwoAndOutsideTheChecksum : Prop :=
  (∀ (o : BuildOperands) (s : State) (ack : Int), s.phase = .idle → o.Accepted s.params.pmax → 0 ≤ ack → ack ≤ 255 →
    ∃ (F : List Byte) (b : Byte), exec o.toInstr s = .next { s with delivered := s.delivered ++ [.frame F] } ∧
      F[2]? = some b ∧ (b.toNat : Int) = o.ack ∧
      exec ({ o with ack := ack } : BuildOperands).toInstr s =
        .next { s with delivered := s.delivered ++ [.frame (F.set 2 (BitVec.ofInt 8 ack))] }) ∧
  (∀ (o : BuildOperands) (s : State) (ack : Int), s.phase = .idle → o.Accepted s.params.pmax → (ack < 0 ∨ 255 < ack) →
    exec ({ o with ack := ack } : BuildOperands).toInstr s =
      .next { s with delivered := s.delivered ++ [.validationError .ack] }) ∧
  (∀ (seq reg len : Int) (payload : List Int) (port : Int) (s : State), s.phase = .idle →
    BuildOperands.Accepted s.params.pmax ⟨seq, reg, len, payload, port, true, true, 0⟩ →
    ∃ F : List Byte, exec (.buildDefault seq reg len payload port) s =
        .next { s with delivered := s.delivered ++ [.frame F] } ∧
      F[2]? = some 0x00)

/-- Sequence number: `F[3] = sequence`; outside 0 to 255 it is a validation error, whatever the other operands are (R70). -/
def Obligations.SequenceIsByteThree : Prop :=
  (∀ (o : BuildOperands) (s : State), s.phase = .idle → o.Accepted s.params.pmax →
    ∃ (F : List Byte) (b : Byte), exec o.toInstr s = .next { s with delivered := s.delivered ++ [.frame F] } ∧
      F[3]? = some b ∧ (b.toNat : Int) = o.sequence) ∧
  (∀ (o : BuildOperands) (s : State), s.phase = .idle → (o.sequence < 0 ∨ 255 < o.sequence) →
    exec o.toInstr s = .next { s with delivered := s.delivered ++ [.validationError .sequence] })

/-- Port index: `F[7] = port - 1`, exact and without a wrap; a port outside 1 to 256 is a validation error (R74). -/
def Obligations.PortIndexIsPortMinusOne : Prop :=
  (∀ (o : BuildOperands) (s : State), s.phase = .idle → o.Accepted s.params.pmax →
    ∃ (F : List Byte) (b : Byte), exec o.toInstr s = .next { s with delivered := s.delivered ++ [.frame F] } ∧
      F[7]? = some b ∧ (b.toNat : Int) = o.port - 1) ∧
  (∀ (o : BuildOperands) (s : State), s.phase = .idle → 0 ≤ o.sequence → o.sequence ≤ 255 → (o.port < 1 ∨ 256 < o.port) →
    exec o.toInstr s = .next { s with delivered := s.delivered ++ [.validationError .port] })

/-- Register address: the four bytes at offsets 12 to 15 are the address, least significant first; an address that is no 32-bit
value is a validation error (R78). -/
def Obligations.RegisterAddressIsLittleEndian : Prop :=
  (∀ (o : BuildOperands) (s : State), s.phase = .idle → o.Accepted s.params.pmax →
    ∃ (F : List Byte) (b₀ b₁ b₂ b₃ : Byte), exec o.toInstr s = .next { s with delivered := s.delivered ++ [.frame F] } ∧
      F[12]? = some b₀ ∧ F[13]? = some b₁ ∧ F[14]? = some b₂ ∧ F[15]? = some b₃ ∧
      (b₀.toNat + 0x100 * b₁.toNat + 0x10000 * b₂.toNat + 0x1000000 * b₃.toNat : Int) = o.registerAddress) ∧
  (∀ (o : BuildOperands) (s : State), s.phase = .idle → 0 ≤ o.sequence → o.sequence ≤ 255 → 1 ≤ o.port → o.port ≤ 256 →
    (o.registerAddress < 0 ∨ 0xFFFFFFFF < o.registerAddress) →
    exec o.toInstr s = .next { s with delivered := s.delivered ++ [.validationError .registerAddress] })

/-- Data length: `F[16] = payload_length mod 256` and `F[17] = 0` for every declared length; the field is the true little-endian
encoding exactly up to 255; a declared length that is no 16-bit value is a validation error (R79). -/
def Obligations.DataLengthKeepsTheMaskingQuirk : Prop :=
  (∀ (o : BuildOperands) (s : State), s.phase = .idle → o.Accepted s.params.pmax →
    ∃ (F : List Byte) (b₀ b₁ : Byte), exec o.toInstr s = .next { s with delivered := s.delivered ++ [.frame F] } ∧
      F[16]? = some b₀ ∧ F[17]? = some b₁ ∧ (b₀.toNat : Int) = o.payloadLength % 256 ∧ b₁ = 0 ∧
      ((b₀.toNat + 0x100 * b₁.toNat : Int) = o.payloadLength ↔ o.payloadLength ≤ 255)) ∧
  (∀ (o : BuildOperands) (s : State), s.phase = .idle → 0 ≤ o.sequence → o.sequence ≤ 255 → 1 ≤ o.port → o.port ≤ 256 →
    0 ≤ o.registerAddress → o.registerAddress ≤ 0xFFFFFFFF → (o.payloadLength < 0 ∨ 65535 < o.payloadLength) →
    exec o.toInstr s = .next { s with delivered := s.delivered ++ [.validationError .payloadLength] })

/-- BUILD does not compare the declared length with N: with any two accepted payloads it delivers frames with the same header (R80).
-/
def Obligations.DeclaredLengthIsNotComparedWithThePayload : Prop :=
  ∀ (o : BuildOperands) (other : List Int) (s : State), s.phase = .idle → o.Accepted s.params.pmax →
    other.length ≤ s.params.pmax → (∀ b ∈ other, 0 ≤ b ∧ b ≤ 255) →
    ∃ F G : List Byte, exec o.toInstr s = .next { s with delivered := s.delivered ++ [.frame F] } ∧
      exec ({ o with payload := other } : BuildOperands).toInstr s =
        .next { s with delivered := s.delivered ++ [.frame G] } ∧
      F.take 18 = G.take 18 ∧ G.length = 20 + other.length

/-- Payload: `F[18+j] = payload[j]` for j from 0 to N - 1, a zero byte like any other, and nothing at all for N = 0; a payload that
is too long or holds no byte is a validation error (R81). -/
def Obligations.PayloadBytesFollowTheHeader : Prop :=
  (∀ (o : BuildOperands) (s : State), s.phase = .idle → o.Accepted s.params.pmax →
    ∃ (F : List Byte) (bytes : List Byte) (c₀ c₁ : Byte),
      exec o.toInstr s = .next { s with delivered := s.delivered ++ [.frame F] } ∧
      F.drop 18 = bytes ++ [c₀, c₁] ∧ bytes.map (fun b => (b.toNat : Int)) = o.payload) ∧
  (∀ (o : BuildOperands) (s : State) (bad : List Int), s.phase = .idle → o.Accepted s.params.pmax →
    (s.params.pmax < bad.length ∨ ∃ b ∈ bad, b < 0 ∨ 255 < b) →
    exec ({ o with payload := bad } : BuildOperands).toInstr s =
      .next { s with delivered := s.delivered ++ [.validationError .payload] })

/-! ### CHECKSUM -/

/-- CHECKSUM is total: it answers `(S + 0x5555) mod 65536` for the bytes from offset 3 on, and changes nothing else.  Of the bodies
of frames, T = S + 0x5555 is at least 0x5654, which the all-zero response-read body with port 1 has, and passes 0xFFFF only for
N ≥ 162 (R83). -/
def Obligations.ChecksumIsTheBiasedSumMod65536 : Prop :=
  (∀ (F : List Byte) (s : State), ∃ c : Word16,
    exec (.checksum F) s = .next { s with delivered := s.delivered ++ [.checksum c] } ∧
    c.toNat = (((F.drop 3).map BitVec.toNat).sum + 0x5555) % 65536) ∧
  (∀ o : BuildOperands, o.Fits →
    0x5654 ≤ sumFrom3 (bodyBytes o) + 0x5555 ∧ (0xFFFF < sumFrom3 (bodyBytes o) + 0x5555 → 162 ≤ o.payload.length)) ∧
  sumFrom3 (bodyBytes ⟨0, 0, 0, [], 1, false, false, 0⟩) + 0x5555 = 0x5654

/-- The last two bytes of a frame are bits 7 to 0 and 15 to 8 of `T = S + 0x5555`, S over offsets 3 to 17 + N; bits 16 and above
are dropped (R85). -/
def Obligations.ChecksumBytesAreTheLowSixteenBits : Prop :=
  ∀ (o : BuildOperands) (s : State), s.phase = .idle → o.Accepted s.params.pmax →
    ∃ (F : List Byte) (c₀ c₁ : Byte), exec o.toInstr s = .next { s with delivered := s.delivered ++ [.frame F] } ∧
      F[18 + o.payload.length]? = some c₀ ∧ F[19 + o.payload.length]? = some c₁ ∧
      c₀.toNat = (sumFrom3 (F.take (18 + o.payload.length)) + 0x5555) % 256 ∧
      c₁.toNat = (sumFrom3 (F.take (18 + o.payload.length)) + 0x5555) / 256 % 256

/-- A 16-bit accumulator that wraps gives the same C, whether it starts at the bias or has the bias added at the end, and in any order
of the bytes; S is at most 2551 + 255·N and T at most 24396 + 255·N; T passes 0xFFFF only for N ≥ 162; and a client command's T is at
most 0x5B54 (R86). -/
def Obligations.WrappingAccumulatorComputesTheSameChecksum : Prop :=
  (∀ F : List Byte, wrappingChecksum F = checksum F ∧ wrappingSum 0 (F.drop 3) + 0x5555 = checksum F) ∧
  (∀ (head body body' : List Byte), head.length = 3 → body.Perm body' →
    wrappingChecksum (head ++ body') = checksum (head ++ body)) ∧
  (∀ o : BuildOperands, o.Fits →
    sumFrom3 (bodyBytes o) ≤ 2551 + 255 * o.payload.length ∧
    sumFrom3 (bodyBytes o) + 0x5555 ≤ 24396 + 255 * o.payload.length ∧
    (0xFFFF < sumFrom3 (bodyBytes o) + 0x5555 → 162 ≤ o.payload.length)) ∧
  (∀ (i : Instr) (v : Int) (s t : State) (h : Handed), legalClient i v → exec i s = .next t →
    t.handed = s.handed ++ [h] → sumFrom3 (h.frame.take 19) + 0x5555 ≤ 0x5B54)

/-- The closed form of S; the checksum bytes of a command-write frame by it; and those of the frames SETBRT and SHOWPAT hand over, with
no reduction (R87). -/
def Obligations.ChecksumHasTheClosedForm : Prop :=
  (∀ (o : BuildOperands) (s : State), s.phase = .idle → o.Accepted s.params.pmax →
    ∃ (F : List Byte), exec o.toInstr s = .next { s with delivered := s.delivered ++ [.frame F] } ∧
      ∀ r : Int, r = o.registerAddress % 256 + o.registerAddress / 0x100 % 256 + o.registerAddress / 0x10000 % 256 +
          o.registerAddress / 0x1000000 →
        (sumFrom3 (F.take (18 + o.payload.length)) : Int) =
          0xFF + (if o.isCommand then 0x1FE else 0) + (if o.isWrite then 1 else 0) + o.sequence + (o.port - 1) + r +
            o.payloadLength % 256 + o.payload.sum ∧
        (o.isCommand = true → o.isWrite = true →
          ∃ c₀ c₁ : Byte, F[18 + o.payload.length]? = some c₀ ∧ F[19 + o.payload.length]? = some c₁ ∧
            (c₀.toNat + 256 * c₁.toNat : Int) =
              (0x5853 + o.sequence + (o.port - 1) + r + o.payloadLength % 256 + o.payload.sum) % 65536)) ∧
  (∀ (level : Int) (s t : State) (h : Handed), exec (.setbrt level) s = .next t → t.handed = s.handed ++ [h] →
    ∃ c₀ c₁ : Byte, h.frame[19]? = some c₀ ∧ h.frame[20]? = some c₁ ∧
      (c₀.toNat + 256 * c₁.toNat : Int) = 0x5857 + s.seq.toNat + (s.port - 1) + level) ∧
  (∀ (code : Int) (s t : State) (h : Handed), exec (.showpat code) s = .next t → t.handed = s.handed ++ [h] →
    ∃ c₀ c₁ : Byte, h.frame[19]? = some c₀ ∧ h.frame[20]? = some c₁ ∧
      (c₀.toNat + 256 * c₁.toNat : Int) = 0x5858 + s.seq.toNat + (s.port - 1) + code)

/-- For every frame F that BUILD returns, `(F[3] + ... + F[len(F)-3] + 0x5555) mod 65536 = F[len(F)-2] + 256·F[len(F)-1]`; the
frames the client commands hand over are such frames (R88). -/
def Obligations.ChecksumRoundTripsOnEveryFrame : Prop :=
  (∀ (i : Instr) (s t : State) (F : List Byte), exec i s = .next t → t.delivered = s.delivered ++ [.frame F] →
    2 ≤ F.length ∧ ∃ c₀ c₁ : Byte, F[F.length - 2]? = some c₀ ∧ F[F.length - 1]? = some c₁ ∧
      (sumFrom3 (F.take (F.length - 2)) + 0x5555) % 65536 = c₀.toNat + 256 * c₁.toNat) ∧
  (∀ (i : Instr) (s t : State) (h : Handed), exec i s = .next t → t.handed = s.handed ++ [h] →
    2 ≤ h.frame.length ∧ ∃ c₀ c₁ : Byte, h.frame[h.frame.length - 2]? = some c₀ ∧ h.frame[h.frame.length - 1]? = some c₁ ∧
      (sumFrom3 (h.frame.take (h.frame.length - 2)) + 0x5555) % 65536 = c₀.toNat + 256 * c₁.toNat)

/-- What the checksum does not protect: reordering the payload keeps the two checksum bytes; and for the bytes CHECKSUM is given,
changing the marker and the acknowledgement flag, reordering the bytes from offset 3 on, and changes that cancel in the sum all keep
C (R89). -/
def Obligations.ChecksumIsBlindToOrderAndToTheFirstThreeBytes : Prop :=
  (∀ (o : BuildOperands) (other : List Int) (s : State), s.phase = .idle → o.Accepted s.params.pmax →
    o.payload.Perm other →
    ∃ F G : List Byte, exec o.toInstr s = .next { s with delivered := s.delivered ++ [.frame F] } ∧
      exec ({ o with payload := other } : BuildOperands).toInstr s =
        .next { s with delivered := s.delivered ++ [.frame G] } ∧
      F.drop (18 + o.payload.length) = G.drop (18 + o.payload.length)) ∧
  (∀ (head head' body body' : List Byte), head.length = 3 → head'.length = 3 →
    (body.Perm body' ∨ (body.map BitVec.toNat).sum = (body'.map BitVec.toNat).sum) →
    checksum (head ++ body) = checksum (head' ++ body'))

/-! ### Validation errors -/

/-- The table of R100: every check, their order and their codes.  BUILD and its shapes name the first condition that raises and
deliver a frame when none does; SETBRT and SHOWPAT check their own operand, then PORT. -/
def Obligations.RangeChecksRaiseInTableOrder : Prop :=
  (∀ (o : BuildOperands) (s : State) (f : Field), s.phase = .idle → buildFailure s.params.pmax o = some f →
    exec o.toInstr s = .next { s with delivered := s.delivered ++ [.validationError f] } ∧
    exec (shape o) s = .next { s with delivered := s.delivered ++ [.validationError f] }) ∧
  (∀ (o : BuildOperands) (s : State), s.phase = .idle → buildFailure s.params.pmax o = none →
    ∃ F, exec o.toInstr s = .next { s with delivered := s.delivered ++ [.frame F] } ∧
      exec (shape o) s = .next { s with delivered := s.delivered ++ [.frame F] }) ∧
  (∀ (level : Int) (s : State), s.phase = .idle → s.constructed = true → (level < 0 ∨ 255 < level) →
    exec (.setbrt level) s = .next { s with delivered := s.delivered ++ [.validationError .level] }) ∧
  (∀ (level : Int) (s : State), s.phase = .idle → s.constructed = true → 0 ≤ level → level ≤ 255 →
    (s.port < 1 ∨ 256 < s.port) →
    exec (.setbrt level) s = .next { s with delivered := s.delivered ++ [.validationError .port] }) ∧
  (∀ (code : Int) (s : State), s.phase = .idle → s.constructed = true → (code < 1 ∨ 9 < code) →
    exec (.showpat code) s = .next { s with delivered := s.delivered ++ [.validationError .patternCode] }) ∧
  (∀ (code : Int) (s : State), s.phase = .idle → s.constructed = true → 1 ≤ code → code ≤ 9 →
    (s.port < 1 ∨ 256 < s.port) →
    exec (.showpat code) s = .next { s with delivered := s.delivered ++ [.validationError .port] }) ∧
  [Field.sequence, .port, .registerAddress, .payloadLength, .payload, .ack, .level, .patternCode].map Field.code =
    [1, 2, 3, 4, 5, 6, 7, 8]

/-- What an error does to the block, for every instruction: a validation error adds the outcome and nothing else; a transport error
leaves SEQ, PORT and the rest of the client alone, after exactly one whole 21-byte frame was handed over; and where the write failed
in a later step than the one that began it, that step ends the command and changes nothing else (R104). -/
def Obligations.ErrorsLeaveTheRegistersAlone : Prop :=
  (∀ (i : Instr) (s t : State) (f : Field), exec i s = .next t → t.delivered = s.delivered ++ [.validationError f] →
    t = { s with delivered := s.delivered ++ [.validationError f] }) ∧
  (∀ (i : Instr) (s t : State) (e : Nat), exec i s = .next t → t.delivered = s.delivered ++ [.transportError e] →
    ∃ (F : List Byte) (rest : List TransportReply), F.length = 21 ∧ s.replies = .failed e :: rest ∧
      t = { s with replies := rest, handed := s.handed ++ [⟨s.transport, F⟩]
                   delivered := s.delivered ++ [.transportError e] }) ∧
  (∀ (s t : State) (e : Nat), s.phase = .writing → step s = .next t →
    t.delivered = s.delivered ++ [.transportError e] →
    ∃ rest : List TransportReply, s.replies = .failed e :: rest ∧
      t = { s with replies := rest, phase := .idle, delivered := s.delivered ++ [.transportError e] })

/-- Errors are never sticky: from a constructed idle block, a command that ends in an error leaves a block in which every legal
client command still ends with Ok as soon as the transport answers (R105). -/
def Obligations.ACommandAfterAnErrorCanSucceed : Prop :=
  ∀ (i j : Instr) (v : Int) (n : Nat) (s t : State) (o : CommandOutcome), Ready s → exec i s = .next t →
    t.delivered = s.delivered ++ [o] → ((∃ f, o = .validationError f) ∨ ∃ e, o = .transportError e) → legalClient j v →
    ∃ u : State, exec j { t with replies := [.returned n] } = .next u ∧ u.delivered = t.delivered ++ [.ok] ∧
      (i = j → (∃ e, o = .transportError e) → ∃ h, t.handed = s.handed ++ [h] ∧ u.handed = t.handed ++ [h])

/-! ### The client register layer -/

/-- SETBRT, the whole rule, on an idle constructed block.  Transport Ok: one 21-byte frame with the closed-form checksum is handed over,
SeqUpdate runs, the outcome is Ok.  Transport failure: the same frame, SEQ unchanged, the transport's error.  Operand out of range,
or PORT out of range: ValidationError and nothing written.  Nothing else changes (R92). -/
def Obligations.SetbrtWritesTheBrightnessFrame : Prop :=
  (∀ (v : Int) (s : State) (n : Nat) (rest : List TransportReply), Ready s → 0 ≤ v → v ≤ 255 →
    s.replies = .returned n :: rest →
    exec (.setbrt v) s =
      .next { s with seq := nextSeq s, replies := rest
                     handed := s.handed ++ [⟨s.transport, setbrtBytes s.seq s.port v⟩]
                     delivered := s.delivered ++ [.ok] }) ∧
  (∀ (v : Int) (s : State) (e : Nat) (rest : List TransportReply), Ready s → 0 ≤ v → v ≤ 255 →
    s.replies = .failed e :: rest →
    exec (.setbrt v) s =
      .next { s with replies := rest
                     handed := s.handed ++ [⟨s.transport, setbrtBytes s.seq s.port v⟩]
                     delivered := s.delivered ++ [.transportError e] }) ∧
  (∀ (v : Int) (s : State), s.phase = .idle → s.constructed = true → (v < 0 ∨ 255 < v) →
    exec (.setbrt v) s = .next { s with delivered := s.delivered ++ [.validationError .level] }) ∧
  (∀ (v : Int) (s : State), s.phase = .idle → s.constructed = true → 0 ≤ v → v ≤ 255 → (s.port < 1 ∨ 256 < s.port) →
    exec (.setbrt v) s = .next { s with delivered := s.delivered ++ [.validationError .port] })

/-- SHOWPAT, the whole rule, on an idle constructed block.  Transport Ok: one 21-byte frame with the closed-form checksum is handed over,
SeqUpdate runs, the outcome is Ok.  Transport failure: the same frame, SEQ unchanged, the transport's error.  Operand out of range,
or PORT out of range: ValidationError and nothing written.  Nothing else changes (R93). -/
def Obligations.ShowpatWritesThePatternFrame : Prop :=
  (∀ (v : Int) (s : State) (n : Nat) (rest : List TransportReply), Ready s → 1 ≤ v → v ≤ 9 →
    s.replies = .returned n :: rest →
    exec (.showpat v) s =
      .next { s with seq := nextSeq s, replies := rest
                     handed := s.handed ++ [⟨s.transport, showpatBytes s.seq s.port v⟩]
                     delivered := s.delivered ++ [.ok] }) ∧
  (∀ (v : Int) (s : State) (e : Nat) (rest : List TransportReply), Ready s → 1 ≤ v → v ≤ 9 →
    s.replies = .failed e :: rest →
    exec (.showpat v) s =
      .next { s with replies := rest
                     handed := s.handed ++ [⟨s.transport, showpatBytes s.seq s.port v⟩]
                     delivered := s.delivered ++ [.transportError e] }) ∧
  (∀ (v : Int) (s : State), s.phase = .idle → s.constructed = true → (v < 1 ∨ 9 < v) →
    exec (.showpat v) s = .next { s with delivered := s.delivered ++ [.validationError .patternCode] }) ∧
  (∀ (v : Int) (s : State), s.phase = .idle → s.constructed = true → 1 ≤ v → v ≤ 9 → (s.port < 1 ∨ 256 < s.port) →
    exec (.showpat v) s = .next { s with delivered := s.delivered ++ [.validationError .port] })

/-- A failed write ends SETBRT and SHOWPAT at once with the transport's own error, SEQ not updated and no retry; what a write merely
returns is not looked at and counts as Ok; BUILD cannot end with TransportError; and the outcome has code 16 (R102). -/
def Obligations.TransportFailureIsPassedOnUnchanged : Prop :=
  (∀ (i : Instr) (v : Int) (s : State) (e : Nat) (rest : List TransportReply), Ready s → legalClient i v →
    s.replies = .failed e :: rest →
    ∃ F : List Byte, F.length = 21 ∧
      exec i s = .next { s with replies := rest, handed := s.handed ++ [⟨s.transport, F⟩]
                                delivered := s.delivered ++ [.transportError e] }) ∧
  (∀ (i : Instr) (v : Int) (s : State) (rest : List TransportReply), Ready s → legalClient i v →
    ∃ t : State, t.delivered = s.delivered ++ [.ok] ∧
      ∀ n : Nat, exec i { s with replies := .returned n :: rest } = .next t) ∧
  (∀ (o : BuildOperands) (s t : State) (e : Nat), exec o.toInstr s = .next t ∨ exec (shape o) s = .next t →
    t.delivered ≠ s.delivered ++ [.transportError e]) ∧
  (∀ e : Nat, (CommandOutcome.transportError e).code = some 16)

/-- While the transport's write has not returned, the command stays in progress with its whole frame handed over and no outcome; no
step takes a command, whatever is presented; and the return ends it by the rules of Ok and Err (R121). -/
def Obligations.ClientCommandBlocksUntilTheWriteReturns : Prop :=
  ∀ (i : Instr) (v : Int) (s : State), Ready s → legalClient i v → s.replies = [] →
    ∃ (F : List Byte) (t : State), F.length = 21 ∧ exec i s = .next t ∧
      t = { s with handed := s.handed ++ [⟨s.transport, F⟩], phase := .writing } ∧
      (∀ cmds : List Instr, step { t with presented := cmds } = .next { t with presented := cmds }) ∧
      (∀ (cmds : List Instr) (n : Nat) (rest : List TransportReply),
        step { t with presented := cmds, replies := .returned n :: rest } =
          .next { t with presented := cmds, replies := rest, phase := .idle, seq := nextSeq s
                         delivered := s.delivered ++ [.ok] }) ∧
      (∀ (cmds : List Instr) (e : Nat) (rest : List TransportReply),
        step { t with presented := cmds, replies := .failed e :: rest } =
          .next { t with presented := cmds, replies := rest, phase := .idle
                         delivered := s.delivered ++ [.transportError e] })

/-- SETBRT and SHOWPAT are pseudo-commands: each hands over the very frame that `BUILD SEQ, register, 1, [value], PORT, true, true,
0` delivers on the same state (R61). -/
def Obligations.ClientCommandsExpandToBuild : Prop :=
  ∀ (i : Instr) (v reg : Int) (s : State), Ready s → legalClient i v →
    ((∃ x, i = .setbrt x) → reg = 0x02000001) → ((∃ x, i = .showpat x) → reg = 0x02000101) →
    ∃ (F : List Byte) (t : State),
      exec (.build s.seq.toNat reg 1 [v] s.port true true 0) s =
        .next { s with delivered := s.delivered ++ [.frame F] } ∧
      exec i s = .next t ∧ t.handed = s.handed ++ [⟨s.transport, F⟩]

/-- SEQ has one writer after construction: no instruction but CONSTRUCT changes it unless it ends with Ok and SEQ_INC is true, and
then it becomes (SEQ + 1) mod 256 after the frame with the old value was handed over; the same holds of a step (R94). -/
def Obligations.OnlySeqUpdateWritesSeq : Prop :=
  (∀ (i : Instr) (s t : State), (∀ p b, i ≠ .construct p b) → exec i s = .next t →
    (t.delivered = s.delivered ++ [.ok] → t.seq.toNat = (if s.params.seqInc then (s.seq.toNat + 1) % 256 else s.seq.toNat)) ∧
    (t.delivered ≠ s.delivered ++ [.ok] → t.seq = s.seq) ∧
    (∀ h, t.handed = s.handed ++ [h] → h.frame[3]? = some s.seq)) ∧
  (∀ s t : State, s.constructed = true → step s = .next t →
    (t.delivered = s.delivered ++ [.ok] → t.seq.toNat = (if s.params.seqInc then (s.seq.toNat + 1) % 256 else s.seq.toNat)) ∧
    (t.delivered ≠ s.delivered ++ [.ok] → t.seq = s.seq))

/-- "no command writes it afterwards": once constructed, PORT, the transport binding and the parameters never change (R16, R17,
R116). -/
def Obligations.PortAndBindingAreFixedAtConstruction : Prop :=
  (∀ (i : Instr) (s t : State), s.constructed = true → exec i s = .next t →
    t.port = s.port ∧ t.transport = s.transport ∧ t.constructed = true ∧ t.params = s.params) ∧
  (∀ s t : State, s.constructed = true → step s = .next t →
    t.port = s.port ∧ t.transport = s.transport ∧ t.constructed = true ∧ t.params = s.params)

/-- CONSTRUCT stores PORT_INIT unchecked, clears SEQ, binds the transport, ends with Ok, and emits nothing; with PORT_INIT outside 1 to
256 every later client command with a legal operand ends with ValidationError(port) (R91). -/
def Obligations.ConstructSetsPortAndClearsSeq : Prop :=
  (∀ (p : Int) (b : Nat) (s : State), s.phase = .idle → s.constructed = false →
    exec (.construct p b) s =
      .next { s with constructed := true, seq := 0, port := p, transport := b, delivered := s.delivered ++ [.ok] }) ∧
  (∀ (p : Int) (b : Nat) (s t : State) (i : Instr) (v : Int), exec (.construct p b) s = .next t → (p < 1 ∨ 256 < p) →
    legalClient i v → exec i t = .next { t with delivered := t.delivered ++ [.validationError .port] })

/-- CONSTRUCT happens once: on a constructed idle block it is refused by name; and no client command precedes it (R96, R116, U13).
That the stop is a refusal of these names is the model's choice (log 10). -/
def Obligations.ConstructIsFirstAndOnce : Prop :=
  (∀ (p : Int) (b : Nat) (s : State), s.phase = .idle → s.constructed = true →
    exec (.construct p b) s = .refused .alreadyConstructed) ∧
  (∀ (i : Instr) (s : State), isClient i → s.phase = .idle → s.constructed = false → exec i s = .refused .notConstructed)

/-- A PORT outside 1 to 256 is stored, and from then on no step ever hands a frame over (R16). -/
def Obligations.IllegalPortNeverEmits : Prop :=
  ∀ s t : State, s.constructed = true → s.phase = .idle → (s.port < 1 ∨ 256 < s.port) → step s = .next t →
    t.handed = s.handed ∧ t.seq = s.seq ∧ t.port = s.port ∧ t.constructed = true ∧ t.phase = .idle

/-- One write per command: over a step of a constructed block, the frames handed over and the writes begun or ended grow together,
each by at most one; so a successful client command is one `TransportWrite`, a failed validation and a BUILD are none (R41, R95). -/
def Obligations.OneTransportWritePerClientCommand : Prop :=
  ∀ s t : State, s.constructed = true → step s = .next t →
    t.handed.length + writesSeen s = s.handed.length + writesSeen t ∧
    (t.handed = s.handed ∨ ∃ F : List Byte, F.length = 21 ∧ t.handed = s.handed ++ [⟨s.transport, F⟩]) ∧
    (t.delivered = s.delivered ∨ ∃ o, t.delivered = s.delivered ++ [o])

/-- No feedback path: the outputs are only ever added to, and no step reads them (R3, R18). -/
def Obligations.OutputsAreNeverReadBack : Prop :=
  ∀ s t : State, step s = .next t →
    ∃ (hs : List Handed) (os : List CommandOutcome), t.handed = s.handed ++ hs ∧ t.delivered = s.delivered ++ os ∧
      ∀ (h : List Handed) (d : List CommandOutcome),
        step { s with handed := h, delivered := d } = .next { t with handed := h ++ hs, delivered := d ++ os }

/-- n legal client commands, presented in order and answered Ok by the transport, complete in n steps: their frames are handed over
in that order, each with its own value and the sequence number SEQ has then, and SEQ ends at (SEQ + n) mod 256 if SEQ_INC is true
and unchanged if not (R41, R94). -/
def Obligations.SeqCountsTheFramesOfARun : Prop :=
  ∀ (cmds : List (Instr × Int)) (results : List Nat) (more : List Instr) (later : List TransportReply) (s : State),
    Ready s → (∀ c ∈ cmds, legalClient c.1 c.2) → results.length = cmds.length →
    s.presented = cmds.map Prod.fst ++ more → s.replies = results.map .returned ++ later →
    ∃ (t : State) (frames : List (List Byte)), Host.Core.run Sys2Proof.core cmds.length s = .next t ∧
      frames.length = cmds.length ∧
      t = { s with presented := more, replies := later
                   seq := if s.params.seqInc then BitVec.ofNat 8 (s.seq.toNat + cmds.length) else s.seq
                   handed := s.handed ++ frames.map (fun F => ⟨s.transport, F⟩)
                   delivered := s.delivered ++ List.replicate cmds.length .ok } ∧
      ∀ (k : Nat) (c : Instr × Int) (F : List Byte), cmds[k]? = some c → frames[k]? = some F →
        F.length = 21 ∧ F[18]? = some (BitVec.ofInt 8 c.2) ∧
        F[3]? = some (if s.params.seqInc then BitVec.ofNat 8 (s.seq.toNat + k) else s.seq)

/-! ### The whole machine -/

/-- After reset: SEQ = 0, PORT = PORT_INIT, the transport bound, nothing in progress, no outcome pending (R25); it is what CONSTRUCT
leaves of a block before construction.  PORT_INIT = 1 and the transport's label are the model's choice (log 2). -/
def Obligations.ResetIsConstruction : Prop :=
  State.reset.seq = 0 ∧ State.reset.port = Config.portInit ∧ State.reset.constructed = true ∧
  State.reset.phase = .idle ∧ State.reset.delivered = [] ∧ State.reset.handed = [] ∧
  ∀ (q : Params) (p : Int) (b : Nat),
    exec (.construct p b) (State.unconstructed q) = .next { State.resetWith q p b with delivered := [.ok] }

/-- The invariant holds after every construction, before construction, and so at reset (R7, R25). -/
def Obligations.InvariantHoldsAtReset : Prop :=
  (∀ (q : Params) (p : Int) (b : Nat), q.legal = true → (State.resetWith q p b).Inv) ∧
  (∀ q : Params, q.legal = true → (State.unconstructed q).Inv) ∧ State.reset.Inv

/-- Every step keeps the invariant: whatever is handed over is a 21-byte brightness or pattern write that carries the block's own
PORT and a checksum that holds, whatever is delivered is proper, and with SEQ_INC = false SEQ and every sequence byte are 0. -/
def Obligations.StepKeepsTheInvariant : Prop :=
  ∀ s t : State, s.Inv → step s = .next t → t.Inv

/-- A step runs the command the host presents next, of an idle block, on the state without it; a word of the opcode table that
decodes is such a command; with none presented nothing happens; and CHECKSUM is no command a host can present (R19, R83).  The queue of
presented commands and the refusal's name are the model's choice (logs 7 and 9). -/
def Obligations.StepRunsThePresentedCommand : Prop :=
  (∀ (i : Instr) (rest : List Instr) (s : State), s.phase = .idle → s.presented = i :: rest → i.presentable = true →
    step s = exec i { s with presented := rest }) ∧
  (∀ (nbits w : Nat) (i : Instr) (s : State), decodeTableWord nbits w = some i →
    step (s.withFetchWord nbits w) = exec i { s with phase := .idle }) ∧
  (∀ s : State, s.phase = .idle → s.presented = [] → step s = .next s) ∧
  (∀ (F : List Byte) (rest : List Instr) (s : State), s.phase = .idle → s.presented = .checksum F :: rest →
    step s = .refused .notPresentable)

/-- After any outcome the block is ready for the next command: a constructed block whose host presents a command of R50 other than
CONSTRUCT always answers a next state, which is again constructed (R105, R109). -/
def Obligations.AConstructedBlockNeverStops : Prop :=
  ∀ s : State, s.constructed = true →
    (∀ i ∈ s.presented, i.presentable = true ∧ ∀ p b, i ≠ .construct p b) →
    ∃ t : State, step s = .next t ∧ t.constructed = true ∧
      (∀ i ∈ t.presented, i.presentable = true ∧ ∀ p b, i ≠ .construct p b)

/-- Two commands never overlap: every command carried out while another is in progress is refused by name, and no step ever does
that (R118, U6).  That the stop is a refusal of this name is the model's choice (log 10). -/
def Obligations.OverlappingCommandsAreRefused : Prop :=
  (∀ (i : Instr) (s : State), s.phase = .writing → i.presentable = true → exec i s = .refused .commandInProgress) ∧
  (∀ s : State, step s ≠ .refused .commandInProgress)

/-! ### Encoding -/

/-- The field table and the emission algorithm agree: the frame a command lays out by R46 is the frame it delivers, or hands over,
for every legal command that has a frame (R46, R64). -/
def Obligations.EncodingIsTheEmittedFrame : Prop :=
  (∀ (o : BuildOperands) (s : State), s.phase = .idle → o.Accepted s.params.pmax →
    ∃ F : List Byte, encode o.toInstr = some F ∧ encode (shape o) = some F ∧
      exec o.toInstr s = .next { s with delivered := s.delivered ++ [.frame F] } ∧
      exec (shape o) s = .next { s with delivered := s.delivered ++ [.frame F] }) ∧
  (∀ (i : Instr) (v : Int) (s : State), Ready s → legalClient i v →
    ∃ (F : List Byte) (t : State), encodeWith s.seq s.port i = some F ∧ exec i s = .next t ∧
      t.handed = s.handed ++ [⟨s.transport, F⟩])

/-- Decoding the frame of any command gives that command back, up to what the wire drops: the declared length above bit 7 (R79) and
the difference between BUILD and the more specific row its frame belongs to.  SETBRT and SHOWPAT come back as they are.  R57 lets a
frame belong to several rows; that `decode` and `onWire` take the most specific one, so that a BUILD of one byte to the pattern register
is read as SHOWPAT even where the byte is outside 1 to 9, is the model's choice (log 4). -/
def Obligations.DecodeOfEncodeIsTheCommand : Prop :=
  (∀ (i : Instr) (seq : Byte) (port : Int) (F : List Byte), 1 ≤ port → port ≤ 256 → encodeWith seq port i = some F →
    decode F = .ok i.onWire) ∧
  (∀ (i : Instr) (v : Int) (seq : Byte) (port : Int), legalClient i v → 1 ≤ port → port ≤ 256 →
    ∃ F : List Byte, encodeWith seq port i = some F ∧ decode F = .ok i)

/-- Every byte sequence with a checksum that holds and that decodes, other than to SHOWPAT of a code outside 1 to 9, is the frame of
what it decodes to, so that `decode` reads every field (R46, R88).  R57 lets a frame belong to several rows; that it has one reading, the
most specific row's, is the model's choice (log 4).  PatternFramesOutsideTheCodesAreBuildFrames covers the codes left out here. -/
def Obligations.EncodeOfDecodeIsTheFrame : Prop :=
  ∀ (F : List Byte) (i : Instr), checksumHolds F = true → decode F = .ok i →
    (∀ c, i = .showpat c → 1 ≤ c ∧ c ≤ 9) →
    encodeWith (byteAt F 3) (intOfByte (byteAt F 7) + 1) i = some F

/-- A receiver can compute the length as `20 + F[16]` exactly when the sender made `payload_length mod 256` equal to N, which the
two client commands do (R49). -/
def Obligations.ReceiverLengthIsRightExactlyWhenDeclaredSo : Prop :=
  (∀ (o : BuildOperands) (s : State), s.phase = .idle → o.Accepted s.params.pmax →
    ∃ F : List Byte, exec o.toInstr s = .next { s with delivered := s.delivered ++ [.frame F] } ∧
      (receiverLength F = F.length ↔ o.payloadLength % 256 = o.payload.length)) ∧
  (∀ (i : Instr) (s t : State) (h : Handed), exec i s = .next t → t.handed = s.handed ++ [h] →
    receiverLength h.frame = h.frame.length)

/-- Frames written out from the field table decode to commands whose frames they are (vectors V1, V4, V7, V9, V11, V18, and a frame with
a response's marker and a command's board address, which is none).  That V1 and V4 are read as SETBRT and SHOWPAT and not as the BUILD
with the same frame, and the name badBoard of the rejection, are the model's choice (log 4). -/
def Obligations.FramesFromTheTableDecode : Prop :=
  decode [0x55, 0xAA, 0x00, 0x00, 0xFE, 0x00, 0x01, 0x00, 0xFF, 0xFF, 0x01, 0x00, 0x01, 0x00, 0x00, 0x02, 0x01, 0x00, 0x00,
    0x57, 0x58] = .ok (.setbrt 0) ∧
  decode [0x55, 0xAA, 0x00, 0x05, 0xFE, 0x00, 0x01, 0x02, 0xFF, 0xFF, 0x01, 0x00, 0x01, 0x01, 0x00, 0x02, 0x01, 0x00, 0x02,
    0x61, 0x58] = .ok (.showpat 2) ∧
  decode [0x55, 0xAA, 0x00, 0x00, 0xFE, 0x00, 0x01, 0x01, 0xFF, 0xFF, 0x01, 0x00, 0x78, 0x56, 0x34, 0x12, 0x23, 0x00, 0xDE,
    0xAD, 0xBE, 0xD4, 0x5B] = .ok (.buildCommandWrite 0 0x12345678 0x23 [0xDE, 0xAD, 0xBE] 2 0) ∧
  decode [0x55, 0xAA, 0x00, 0x07, 0xFE, 0x00, 0x01, 0x00, 0xFF, 0xFF, 0x00, 0x00, 0x01, 0x00, 0x00, 0x02, 0x04, 0x00, 0x60,
    0x58] = .ok (.buildCommandRead 7 0x02000001 4 [] 1 0) ∧
  decode [0xAA, 0x55, 0x00, 0x00, 0xFE, 0x00, 0x01, 0x00, 0x00, 0x00, 0x01, 0x00, 0x01, 0x00, 0x00, 0x02, 0x01, 0x00, 0x80,
    0xD9, 0x56] = .ok (.buildResponseWrite 0 0x02000001 1 [0x80] 1 0) ∧
  decode [0xAA, 0x55, 0x00, 0x01, 0xFE, 0x00, 0x01, 0x00, 0x00, 0x00, 0x00, 0x00, 0xFF, 0xFF, 0xFF, 0xFF, 0x00, 0x00, 0x51,
    0x5A] = .ok (.buildResponseRead 1 0xFFFFFFFF 0 [] 1 0) ∧
  decode [0xAA, 0x55, 0x00, 0x01, 0xFE, 0x00, 0x01, 0x00, 0xFF, 0xFF, 0x00, 0x00, 0xFF, 0xFF, 0xFF, 0xFF, 0x00, 0x00, 0x51,
    0x5A] = .error .badBoard

/-- What decodes has the 20 bytes of a frame, belongs to BUILD's row (R57), and decodes to a command a host can present which is the
reading of its own frame; so never to the general BUILD.  R57 lets a frame belong to several rows; that `decode` answers the most
specific one is the model's choice (log 4). -/
def Obligations.DecodeReachesOnlyTheSpecificRows : Prop :=
  ∀ (F : List Byte) (i : Instr), decode F = .ok i →
    20 ≤ F.length ∧ i.presentable = true ∧ i.onWire = i ∧ buildRow.covers F = true

/-- The pattern names: "normal=1, red=2, green=3, blue=4, white=5, horizontal=6, vertical=7, slash=8, grayscale=9"; SHOWPAT with a name
is SHOWPAT with its code, and the nine codes that have a name are the accepted ones (R62). -/
def Obligations.PatternNamesAreTheAcceptedCodes : Prop :=
  [Pattern.normal, .red, .green, .blue, .white, .horizontal, .vertical, .slash, .grayscale].map Pattern.code =
    [1, 2, 3, 4, 5, 6, 7, 8, 9] ∧
  (∀ c : Int, (1 ≤ c ∧ c ≤ 9) ↔ ∃ p : Pattern, p.code = c) ∧
  (∀ (p : Pattern) (s : State) (n : Nat) (rest : List TransportReply), Ready s → s.replies = .returned n :: rest →
    exec (.showNamed p) s = exec (.showpat p.code) s ∧
    ∃ t : State, exec (.showNamed p) s = .next t ∧ t.delivered = s.delivered ++ [.ok] ∧
      t.handed = s.handed ++ [⟨s.transport, showpatBytes s.seq s.port p.code⟩])

/-! ### Operand ports, and the pattern register's other frames -/

/-- OPW changes nothing: with other port widths every instruction and every step answers the same state, up to the widths themselves, or
the same refusal (R7 "do not depend on it", R53, U14). -/
def Obligations.PortWidthsChangeNoEffect : Prop :=
  ∀ (w : OperandWidths) (s : State),
    (∀ i : Instr, (∀ t : State, exec i s = .next t → exec i (withWidths w s) = .next (withWidths w t)) ∧
      (∀ r : Refusal, exec i s = .refused r → exec i (withWidths w s) = .refused r)) ∧
    (∀ t : State, step s = .next t → step (withWidths w s) = .next (withWidths w t)) ∧
    (∀ r : Refusal, step s = .refused r → step (withWidths w s) = .refused r)

/-- Which validation errors the port widths leave reachable: legal ports carry every legal command; on ports of exactly the declared
(natural) widths only `port` and `pattern_code` can fail, and `payload` by its length alone; and such a 9-bit port carries the illegal
values 0 and 257 to 511, a 4-bit one 0 and 10 to 15 (R53).  That a port carries unsigned values is read from those numbers (log 3). -/
def Obligations.DeclaredWidthsLeaveOnlyPortAndPatternErrors : Prop :=
  (∀ (i : Instr) (pmax : Nat) (w : OperandWidths), w.legal = true → i.wellFormed pmax = true → i.carriedBy w = true) ∧
  (∀ (i : Instr) (s t : State) (f : Field), s.params.legal = true → i.carriedBy OperandWidths.declared = true →
    exec i s = .next t → t.delivered = s.delivered ++ [.validationError f] →
    f = .port ∨ f = .patternCode ∨
      (f = .payload ∧ ∃ o : BuildOperands, (i = o.toInstr ∨ i = shape o) ∧ s.params.pmax < o.payload.length)) ∧
  (∀ v : Int, Carries OperandWidths.declared.port v →
    ((v < 1 ∨ 256 < v) ↔ (v = 0 ∨ (257 ≤ v ∧ v ≤ 511)))) ∧
  (∀ v : Int, Carries OperandWidths.declared.patternCode v →
    ((v < 1 ∨ 9 < v) ↔ (v = 0 ∨ (10 ≤ v ∧ v ≤ 15))))

/-- A byte sequence with a checksum that holds that is read as SHOWPAT is the frame of the command-write BUILD of that one byte to the
pattern register, whatever the byte is; where it is outside 1 to 9, SHOWPAT itself has no frame (R46, R57, R61).  Reading it as SHOWPAT
is the model's choice (log 4). -/
def Obligations.PatternFramesOutsideTheCodesAreBuildFrames : Prop :=
  ∀ (F : List Byte) (c : Int), checksumHolds F = true → decode F = .ok (.showpat c) →
    encode (.buildCommandWrite (byteAt F 3).toNat 0x02000101 1 [c] ((byteAt F 7).toNat + 1) 0) = some F ∧
    ((c < 1 ∨ 9 < c) → ∀ (seq : Byte) (port : Int), encodeWith seq port (.showpat c) = none)
end

