-- ==== Sys2Proof/Laws/Bytes.lean ====
section
/-! SUPPORT. Bytes, byte sums and the checksum: how the byte conversions invert each other, how sums split, and what CHECKSUM is on
a frame laid out as header, payload and trailer. -/

namespace Sys2Proof.Machine

/-- A checked operand survives the trip into its byte. -/
theorem toNat_byteOfInt {v : Int} (h : Within 0 255 v) : ((byteOfInt v).toNat : Int) = v := by
  obtain ⟨h0, h1⟩ := h
  simp only [byteOfInt, BitVec.toNat_ofInt]
  omega

/-- A checked operand is read back from its byte. -/
theorem intOfByte_byteOfInt {v : Int} (h : Within 0 255 v) : intOfByte (byteOfInt v) = v := toNat_byteOfInt h

/-- A byte is the byte of the integer it holds. -/
@[simp] theorem byteOfInt_intOfByte (b : Byte) : byteOfInt (intOfByte b) = b := by
  apply BitVec.eq_of_toNat_eq
  have hb : b.toNat < 2 ^ 8 := b.isLt
  simp only [byteOfInt, intOfByte, BitVec.toNat_ofInt]
  omega

/-- A byte holds an integer 0 to 255 (R9). -/
theorem within_intOfByte (b : Byte) : Within 0 255 (intOfByte b) := by
  have hb : b.toNat < 2 ^ 8 := b.isLt
  simp only [intOfByte, Within]
  omega

@[simp] theorem toNat_byteOfNat (v : Nat) : (byteOfNat v).toNat = v % 256 := by
  simp [byteOfNat]

@[simp] theorem byteSum_nil : byteSum [] = 0 := rfl

@[simp] theorem byteSum_cons (b : Byte) (bs : List Byte) : byteSum (b :: bs) = b.toNat + byteSum bs := rfl

@[simp] theorem byteSum_append (xs ys : List Byte) : byteSum (xs ++ ys) = byteSum xs + byteSum ys := by
  induction xs with
  | nil => simp
  | cons x xs ih => simp [ih]; omega

/-- The sum does not depend on the order of the bytes (R86, R89). -/
theorem byteSum_perm {xs ys : List Byte} (h : xs.Perm ys) : byteSum xs = byteSum ys := by
  induction h with
  | nil => rfl
  | cons x _ ih => simp [ih]
  | swap x y l => simp; omega
  | trans _ _ ih₁ ih₂ => exact ih₁.trans ih₂

/-- The sum is the library's sum of the bytes' values. -/
theorem byteSum_eq_sum (xs : List Byte) : byteSum xs = (xs.map BitVec.toNat).sum := by
  induction xs with
  | nil => rfl
  | cons x xs ih => simp [ih]

/-- N bytes sum to at most 255·N (R86). -/
theorem byteSum_le (xs : List Byte) : byteSum xs ≤ 255 * xs.length := by
  induction xs with
  | nil => simp
  | cons x xs ih =>
    have hx : x.toNat < 2 ^ 8 := x.isLt
    simp only [byteSum_cons, List.length_cons]
    omega

/-- C as a natural number (R83). -/
theorem toNat_checksum (frame : List Byte) : (checksum frame).toNat = (checksumSum frame + bias) % 65536 := by
  simp [checksum]

/-- The wrapping accumulator adds the exact sum modulo 65536 (R86). -/
theorem wrappingSum_eq (acc : Word16) (bs : List Byte) : wrappingSum acc bs = acc + BitVec.ofNat 16 (byteSum bs) := by
  induction bs generalizing acc with
  | nil => simp [wrappingSum]
  | cons b bs ih =>
    rw [wrappingSum, ih, byteSum_cons]
    apply BitVec.eq_of_toNat_eq
    have hb : b.toNat < 2 ^ 8 := b.isLt
    simp only [BitVec.toNat_add, BitVec.toNat_setWidth, BitVec.toNat_ofNat]
    omega

@[simp] theorem toNat_lowByte (c : Word16) : (lowByte c).toNat = c.toNat % 256 := by
  simp [lowByte]

@[simp] theorem toNat_highByte (c : Word16) : (highByte c).toNat = c.toNat / 256 := by
  have hc : c.toNat < 2 ^ 16 := c.isLt
  simp only [highByte, BitVec.extractLsb'_toNat, Nat.shiftRight_eq_div_pow]
  omega

/-- The two bytes of a checksum are its little-endian bytes (R82). -/
theorem littleEndian_checksum (c : Word16) : littleEndian 2 c.toNat = [lowByte c, highByte c] := by
  have hc : c.toNat < 2 ^ 16 := c.isLt
  simp only [littleEndian, List.cons.injEq, and_true]
  constructor <;> apply BitVec.eq_of_toNat_eq <;> simp
  omega

/-- Little-endian bytes hold the value they were made of (R10). -/
theorem littleEndianValue_littleEndian (k v : Nat) : littleEndianValue (littleEndian k v) = v % 256 ^ k := by
  induction k generalizing v with
  | zero => simp [littleEndian, littleEndianValue, Nat.mod_one]
  | succ k ih =>
    simp only [littleEndian, littleEndianValue, ih, toNat_byteOfNat]
    rw [Nat.pow_succ', Nat.mod_mul]

@[simp] theorem length_littleEndian (k v : Nat) : (littleEndian k v).length = k := by
  induction k generalizing v with
  | zero => rfl
  | succ k ih => simp [littleEndian, ih]

/-- `C[7:0]` and `C[15:8]` make C. -/
theorem lowByte_highByte (c : Word16) : (lowByte c).toNat + 256 * (highByte c).toNat = c.toNat := by
  simp; omega

end Sys2Proof.Machine
end

