-- ==== Sys2Proof/Laws/State.lean ====
section
/-! SUPPORT. One lemma per field per update of the state: what each named operation of Machine/Ops.lean and Machine/Step.lean
writes, and that it leaves every other field alone. -/

namespace Sys2Proof.Machine

@[simp] theorem deliver_params (o : CommandOutcome) (s : State) : (deliver o s).params = s.params := rfl
@[simp] theorem deliver_constructed (o : CommandOutcome) (s : State) : (deliver o s).constructed = s.constructed := rfl
@[simp] theorem deliver_seq (o : CommandOutcome) (s : State) : (deliver o s).seq = s.seq := rfl
@[simp] theorem deliver_port (o : CommandOutcome) (s : State) : (deliver o s).port = s.port := rfl
@[simp] theorem deliver_transport (o : CommandOutcome) (s : State) : (deliver o s).transport = s.transport := rfl
@[simp] theorem deliver_phase (o : CommandOutcome) (s : State) : (deliver o s).phase = s.phase := rfl
@[simp] theorem deliver_presented (o : CommandOutcome) (s : State) : (deliver o s).presented = s.presented := rfl
@[simp] theorem deliver_replies (o : CommandOutcome) (s : State) : (deliver o s).replies = s.replies := rfl
@[simp] theorem deliver_handed (o : CommandOutcome) (s : State) : (deliver o s).handed = s.handed := rfl
@[simp] theorem deliver_delivered (o : CommandOutcome) (s : State) : (deliver o s).delivered = s.delivered ++ [o] := rfl

@[simp] theorem raiseValidation_params (f : Field) (s : State) : (raiseValidation f s).params = s.params := rfl
@[simp] theorem raiseValidation_constructed (f : Field) (s : State) : (raiseValidation f s).constructed = s.constructed := rfl
@[simp] theorem raiseValidation_seq (f : Field) (s : State) : (raiseValidation f s).seq = s.seq := rfl
@[simp] theorem raiseValidation_port (f : Field) (s : State) : (raiseValidation f s).port = s.port := rfl
@[simp] theorem raiseValidation_transport (f : Field) (s : State) : (raiseValidation f s).transport = s.transport := rfl
@[simp] theorem raiseValidation_phase (f : Field) (s : State) : (raiseValidation f s).phase = s.phase := rfl
@[simp] theorem raiseValidation_presented (f : Field) (s : State) : (raiseValidation f s).presented = s.presented := rfl
@[simp] theorem raiseValidation_replies (f : Field) (s : State) : (raiseValidation f s).replies = s.replies := rfl
@[simp] theorem raiseValidation_handed (f : Field) (s : State) : (raiseValidation f s).handed = s.handed := rfl
@[simp] theorem raiseValidation_delivered (f : Field) (s : State) : (raiseValidation f s).delivered = s.delivered ++ [.validationError f] := rfl

@[simp] theorem raiseTransport_params (e : Nat) (s : State) : (raiseTransport e s).params = s.params := rfl
@[simp] theorem raiseTransport_constructed (e : Nat) (s : State) : (raiseTransport e s).constructed = s.constructed := rfl
@[simp] theorem raiseTransport_seq (e : Nat) (s : State) : (raiseTransport e s).seq = s.seq := rfl
@[simp] theorem raiseTransport_port (e : Nat) (s : State) : (raiseTransport e s).port = s.port := rfl
@[simp] theorem raiseTransport_transport (e : Nat) (s : State) : (raiseTransport e s).transport = s.transport := rfl
@[simp] theorem raiseTransport_phase (e : Nat) (s : State) : (raiseTransport e s).phase = s.phase := rfl
@[simp] theorem raiseTransport_presented (e : Nat) (s : State) : (raiseTransport e s).presented = s.presented := rfl
@[simp] theorem raiseTransport_replies (e : Nat) (s : State) : (raiseTransport e s).replies = s.replies := rfl
@[simp] theorem raiseTransport_handed (e : Nat) (s : State) : (raiseTransport e s).handed = s.handed := rfl
@[simp] theorem raiseTransport_delivered (e : Nat) (s : State) : (raiseTransport e s).delivered = s.delivered ++ [.transportError e] := rfl

@[simp] theorem seqUpdate_params (s : State) : (seqUpdate s).params = s.params := rfl
@[simp] theorem seqUpdate_constructed (s : State) : (seqUpdate s).constructed = s.constructed := rfl
@[simp] theorem seqUpdate_seq (s : State) : (seqUpdate s).seq = bif s.params.seqInc then s.seq + 1 else s.seq := rfl
@[simp] theorem seqUpdate_port (s : State) : (seqUpdate s).port = s.port := rfl
@[simp] theorem seqUpdate_transport (s : State) : (seqUpdate s).transport = s.transport := rfl
@[simp] theorem seqUpdate_phase (s : State) : (seqUpdate s).phase = s.phase := rfl
@[simp] theorem seqUpdate_presented (s : State) : (seqUpdate s).presented = s.presented := rfl
@[simp] theorem seqUpdate_replies (s : State) : (seqUpdate s).replies = s.replies := rfl
@[simp] theorem seqUpdate_handed (s : State) : (seqUpdate s).handed = s.handed := rfl
@[simp] theorem seqUpdate_delivered (s : State) : (seqUpdate s).delivered = s.delivered := rfl

@[simp] theorem bindClient_params (p : Int) (b : Nat) (s : State) : (bindClient p b s).params = s.params := rfl
@[simp] theorem bindClient_constructed (p : Int) (b : Nat) (s : State) : (bindClient p b s).constructed = true := rfl
@[simp] theorem bindClient_seq (p : Int) (b : Nat) (s : State) : (bindClient p b s).seq = 0 := rfl
@[simp] theorem bindClient_port (p : Int) (b : Nat) (s : State) : (bindClient p b s).port = p := rfl
@[simp] theorem bindClient_transport (p : Int) (b : Nat) (s : State) : (bindClient p b s).transport = b := rfl
@[simp] theorem bindClient_phase (p : Int) (b : Nat) (s : State) : (bindClient p b s).phase = s.phase := rfl
@[simp] theorem bindClient_presented (p : Int) (b : Nat) (s : State) : (bindClient p b s).presented = s.presented := rfl
@[simp] theorem bindClient_replies (p : Int) (b : Nat) (s : State) : (bindClient p b s).replies = s.replies := rfl
@[simp] theorem bindClient_handed (p : Int) (b : Nat) (s : State) : (bindClient p b s).handed = s.handed := rfl
@[simp] theorem bindClient_delivered (p : Int) (b : Nat) (s : State) : (bindClient p b s).delivered = s.delivered := rfl

@[simp] theorem transportWrite_params (f : List Byte) (s : State) : (transportWrite f s).params = s.params := rfl
@[simp] theorem transportWrite_constructed (f : List Byte) (s : State) : (transportWrite f s).constructed = s.constructed := rfl
@[simp] theorem transportWrite_seq (f : List Byte) (s : State) : (transportWrite f s).seq = s.seq := rfl
@[simp] theorem transportWrite_port (f : List Byte) (s : State) : (transportWrite f s).port = s.port := rfl
@[simp] theorem transportWrite_transport (f : List Byte) (s : State) : (transportWrite f s).transport = s.transport := rfl
@[simp] theorem transportWrite_phase (f : List Byte) (s : State) : (transportWrite f s).phase = .writing := rfl
@[simp] theorem transportWrite_presented (f : List Byte) (s : State) : (transportWrite f s).presented = s.presented := rfl
@[simp] theorem transportWrite_replies (f : List Byte) (s : State) : (transportWrite f s).replies = s.replies := rfl
@[simp] theorem transportWrite_handed (f : List Byte) (s : State) : (transportWrite f s).handed = s.handed ++ [⟨s.transport, f⟩] := rfl
@[simp] theorem transportWrite_delivered (f : List Byte) (s : State) : (transportWrite f s).delivered = s.delivered := rfl

@[simp] theorem endWrite_params (r : List TransportReply) (s : State) : (endWrite r s).params = s.params := rfl
@[simp] theorem endWrite_constructed (r : List TransportReply) (s : State) : (endWrite r s).constructed = s.constructed := rfl
@[simp] theorem endWrite_seq (r : List TransportReply) (s : State) : (endWrite r s).seq = s.seq := rfl
@[simp] theorem endWrite_port (r : List TransportReply) (s : State) : (endWrite r s).port = s.port := rfl
@[simp] theorem endWrite_transport (r : List TransportReply) (s : State) : (endWrite r s).transport = s.transport := rfl
@[simp] theorem endWrite_phase (r : List TransportReply) (s : State) : (endWrite r s).phase = .idle := rfl
@[simp] theorem endWrite_presented (r : List TransportReply) (s : State) : (endWrite r s).presented = s.presented := rfl
@[simp] theorem endWrite_replies (r : List TransportReply) (s : State) : (endWrite r s).replies = r := rfl
@[simp] theorem endWrite_handed (r : List TransportReply) (s : State) : (endWrite r s).handed = s.handed := rfl
@[simp] theorem endWrite_delivered (r : List TransportReply) (s : State) : (endWrite r s).delivered = s.delivered := rfl

@[simp] theorem takeCommand_params (r : List Instr) (s : State) : (s.takeCommand r).params = s.params := rfl
@[simp] theorem takeCommand_constructed (r : List Instr) (s : State) : (s.takeCommand r).constructed = s.constructed := rfl
@[simp] theorem takeCommand_seq (r : List Instr) (s : State) : (s.takeCommand r).seq = s.seq := rfl
@[simp] theorem takeCommand_port (r : List Instr) (s : State) : (s.takeCommand r).port = s.port := rfl
@[simp] theorem takeCommand_transport (r : List Instr) (s : State) : (s.takeCommand r).transport = s.transport := rfl
@[simp] theorem takeCommand_phase (r : List Instr) (s : State) : (s.takeCommand r).phase = s.phase := rfl
@[simp] theorem takeCommand_presented (r : List Instr) (s : State) : (s.takeCommand r).presented = r := rfl
@[simp] theorem takeCommand_replies (r : List Instr) (s : State) : (s.takeCommand r).replies = s.replies := rfl
@[simp] theorem takeCommand_handed (r : List Instr) (s : State) : (s.takeCommand r).handed = s.handed := rfl
@[simp] theorem takeCommand_delivered (r : List Instr) (s : State) : (s.takeCommand r).delivered = s.delivered := rfl

@[simp] theorem present_params (i : Instr) (s : State) : (s.present i).params = s.params := rfl
@[simp] theorem present_constructed (i : Instr) (s : State) : (s.present i).constructed = s.constructed := rfl
@[simp] theorem present_seq (i : Instr) (s : State) : (s.present i).seq = s.seq := rfl
@[simp] theorem present_port (i : Instr) (s : State) : (s.present i).port = s.port := rfl
@[simp] theorem present_transport (i : Instr) (s : State) : (s.present i).transport = s.transport := rfl
@[simp] theorem present_phase (i : Instr) (s : State) : (s.present i).phase = .idle := rfl
@[simp] theorem present_presented (i : Instr) (s : State) : (s.present i).presented = i :: s.presented := rfl
@[simp] theorem present_replies (i : Instr) (s : State) : (s.present i).replies = s.replies := rfl
@[simp] theorem present_handed (i : Instr) (s : State) : (s.present i).handed = s.handed := rfl
@[simp] theorem present_delivered (i : Instr) (s : State) : (s.present i).delivered = s.delivered := rfl

end Sys2Proof.Machine
end

