-- ==== Sys2Proof/Laws/Ops.lean ====
section
/-! SUPPORT. One lemma per shared operation that says once everything it can do: the range checks, the emitted frame, BUILD, the
transport's return, and the inversions of the two ways a command runs. -/

namespace Sys2Proof.Machine

/-! ### Range checks -/

theorem outside_eq_false {lo hi v : Int} : outside lo hi v = false ↔ Within lo hi v := by
  simp [outside, Within]

theorem outside_eq_true {lo hi v : Int} : outside lo hi v = true ↔ ¬ Within lo hi v := by
  rw [← outside_eq_false]; simp

/-- No check fails exactly when no condition raises. -/
theorem firstFailing_eq_none {cs : List RangeCheck} : firstFailing cs = none ↔ ∀ c ∈ cs, c.2 = false := by
  induction cs with
  | nil => simp [firstFailing]
  | cons c cs ih =>
    obtain ⟨f, bad⟩ := c
    cases bad <;> simp [firstFailing, ih]

/-- The payload check (R67). -/
theorem payload_check {pmax : Nat} {bs : List Int} :
    (decide (pmax < bs.length) || bs.any (outside 0 255)) = false ↔ bs.length ≤ pmax ∧ ∀ b ∈ bs, Within 0 255 b := by
  simp [outside_eq_false]

/-- BUILD's checks all pass exactly on the accepted operands of R51. -/
theorem validateBuild_eq_none {pmax : Nat} {o : BuildOperands} : validateBuild pmax o = none ↔ o.Accepted pmax := by
  simp only [validateBuild, buildChecks, firstFailing_eq_none, List.mem_cons, List.not_mem_nil, or_false,
    forall_eq_or_imp, forall_eq, outside_eq_false, payload_check, BuildOperands.Accepted, BuildOperands.Fits]
  tauto

/-! ### The frame -/

/-- The 18 header bytes (R46). -/
theorem emitHeader_eq (o : BuildOperands) :
    emitHeader o =
      [ if o.isCommand then 0x55 else 0xAA, if o.isCommand then 0xAA else 0x55, byteOfInt o.ack, byteOfInt o.sequence,
        0xFE, 0x00, 0x01, portIndex o.port, if o.isCommand then 0xFF else 0x00, if o.isCommand then 0xFF else 0x00,
        if o.isWrite then 0x01 else 0x00, 0x00,
        addressByte o.registerAddress 0, addressByte o.registerAddress 1, addressByte o.registerAddress 2,
        addressByte o.registerAddress 3, lengthLow o.payloadLength, lengthHigh o.payloadLength ] := by
  have hr : List.range 4 = [0, 1, 2, 3] := rfl
  cases hc : o.isCommand <;> cases hw : o.isWrite <;>
    simp [emitHeader, emitMarker, emitFixed, emitBoard, emitDirection, emitAddress, emitLength, emit, hr, hc, hw,
      sourceAddress, destinationAddress, deviceClass, reservedByte]

@[simp] theorem length_emitHeader (o : BuildOperands) : (emitHeader o).length = 18 := by
  rw [emitHeader_eq]; rfl

/-- The payload bytes follow in order (R81). -/
theorem emitPayload_eq (payload : List Int) (frame : List Byte) :
    emitPayload payload frame = frame ++ payload.map byteOfInt := by
  unfold emitPayload
  induction payload generalizing frame with
  | nil => simp
  | cons b bs ih => rw [List.foldl_cons, ih, emit, List.map_cons, List.append_assoc, List.singleton_append]

/-- The body of a frame, everything the checksum is taken over and the three bytes before it (R84). -/
def bodyOf (o : BuildOperands) : List Byte := emitHeader o ++ o.payload.map byteOfInt

/-- A frame is its body and the two checksum bytes (R82). -/
theorem emitFrame_eq (o : BuildOperands) :
    emitFrame o = bodyOf o ++ [lowByte (checksum (bodyOf o)), highByte (checksum (bodyOf o))] := by
  simp [emitFrame, emitChecksum, emit, emitPayload_eq, bodyOf]

@[simp] theorem length_bodyOf (o : BuildOperands) : (bodyOf o).length = 18 + o.payload.length := by
  simp [bodyOf]

/-- "BUILD returns exactly 20 + N bytes" (R66). -/
@[simp] theorem length_emitFrame (o : BuildOperands) : (emitFrame o).length = 20 + o.payload.length := by
  simp [emitFrame_eq]; omega

/-- BUILD returns a frame exactly on the accepted operands. -/
theorem buildFrame_eq_ok {pmax : Nat} {o : BuildOperands} {f : List Byte} :
    buildFrame pmax o = .ok f ↔ o.Accepted pmax ∧ f = emitFrame o := by
  rw [← validateBuild_eq_none]
  unfold buildFrame
  cases validateBuild pmax o <;> simp [eq_comm]

/-- BUILD ends with the first failing field, and only then with an error. -/
theorem buildFrame_eq_error {pmax : Nat} {o : BuildOperands} {field : Field} :
    buildFrame pmax o = .error field ↔ validateBuild pmax o = some field := by
  unfold buildFrame
  cases validateBuild pmax o <;> simp

/-- On accepted operands BUILD is the emission. -/
theorem buildFrame_accepted {pmax : Nat} {o : BuildOperands} (h : o.Accepted pmax) :
    buildFrame pmax o = .ok (emitFrame o) := buildFrame_eq_ok.2 ⟨h, rfl⟩

/-! ### Running a command -/

/-- A command runs only on an idle block. -/
theorem whenIdle_eq_next {s t : State} {r : Result} : whenIdle s r = .next t ↔ s.phase = .idle ∧ r = .next t := by
  unfold whenIdle
  cases s.phase <;> simp

@[simp] theorem whenIdle_idle {s : State} {r : Result} (h : s.phase = .idle) : whenIdle s r = r := by
  simp [whenIdle, h]

/-- A client command runs only on a constructed client. -/
theorem whenConstructed_eq_next {s t : State} {r : Result} :
    whenConstructed s r = .next t ↔ s.constructed = true ∧ r = .next t := by
  unfold whenConstructed
  cases s.constructed <;> simp

@[simp] theorem whenConstructed_constructed {s : State} {r : Result} (h : s.constructed = true) :
    whenConstructed s r = r := by
  simp [whenConstructed, h]

/-- Everything the transport's return can do. -/
theorem transportReturn_cases (s : State) :
    (s.replies = [] ∧ transportReturn s = s) ∨
    (∃ n rest, s.replies = .returned n :: rest ∧ transportReturn s = deliver .ok (seqUpdate (endWrite rest s))) ∨
    (∃ e rest, s.replies = .failed e :: rest ∧ transportReturn s = raiseTransport e (endWrite rest s)) := by
  unfold transportReturn
  rcases s.replies with _ | ⟨_ | _, rest⟩ <;> simp

/-- What a run of BUILD answers: on an idle block, exactly one outcome delivered and nothing else changed (R65, R98). -/
theorem runBuild_eq_next {o : BuildOperands} {s t : State} :
    runBuild o s = .next t ↔ s.phase = .idle ∧
      ((o.Accepted s.params.pmax ∧ t = deliver (.frame (emitFrame o)) s) ∨
        ∃ field, validateBuild s.params.pmax o = some field ∧ t = raiseValidation field s) := by
  unfold runBuild
  rw [whenIdle_eq_next, ← validateBuild_eq_none]
  unfold buildFrame
  cases validateBuild s.params.pmax o <;> simp [eq_comm]

/-- What a client command answers: on an idle constructed client, either a validation error with nothing written, or one whole
frame handed over and then the transport's return (R92, R93, R104). -/
theorem runClient_eq_next {own : RangeCheck} {reg v : Int} {s t : State} :
    runClient own reg v s = .next t ↔ s.phase = .idle ∧ s.constructed = true ∧
      ((own.2 = true ∧ t = raiseValidation own.1 s) ∨
        (own.2 = false ∧
          ((∃ field, validateBuild s.params.pmax (clientOperands reg v s) = some field ∧ t = raiseValidation field s) ∨
            ((clientOperands reg v s).Accepted s.params.pmax ∧
              t = transportReturn (transportWrite (emitFrame (clientOperands reg v s)) s))))) := by
  unfold runClient
  rw [whenIdle_eq_next, whenConstructed_eq_next, ← validateBuild_eq_none]
  obtain ⟨f, bad⟩ := own
  unfold buildFrame
  cases bad <;> cases validateBuild s.params.pmax (clientOperands reg v s) <;> simp [firstFailing, @eq_comm State _ t]

/-- The BUILD of a client command is accepted when its value fits a byte, PORT is legal and PMAX ≥ 1 (R100). -/
theorem clientOperands_accepted {reg v : Int} {s : State} (hr : Within 0 0xFFFFFFFF reg) (hv : Within 0 255 v)
    (hp : Within 1 256 s.port) (hm : 1 ≤ s.params.pmax) : (clientOperands reg v s).Accepted s.params.pmax := by
  have hs := within_intOfByte s.seq
  refine ⟨⟨hs, hp, hr, by norm_num [clientOperands, Within], ?_, by norm_num [clientOperands, Within]⟩, hm⟩
  rintro b hb
  obtain rfl : b = v := by simpa [clientOperands] using hb
  exact hv

/-- What CONSTRUCT answers (R91). -/
theorem execConstruct_eq_next {p : Int} {b : Nat} {s t : State} :
    execConstruct p b s = .next t ↔ s.phase = .idle ∧ s.constructed = false ∧ t = deliver .ok (bindClient p b s) := by
  unfold execConstruct
  rw [whenIdle_eq_next]
  cases s.constructed <;> simp [eq_comm]

/-! ### Running an instruction -/

/-- Everything an instruction can do when it answers a next state: it delivers one outcome that is no Ok and changes nothing
else; or it is CONSTRUCT; or it is a client command that hands over one frame and meets the transport's return. -/
theorem exec_cases {i : Instr} {s t : State} (h : exec i s = .next t) :
    (∃ o, (∃ op : BuildOperands, op.Accepted s.params.pmax ∧ o = .frame (emitFrame op)) ∧ s.phase = .idle ∧
        i.presentable = true ∧ t = deliver o s) ∨
    (∃ field, s.phase = .idle ∧ i.presentable = true ∧ t = raiseValidation field s) ∨
    (∃ frame, i = .checksum frame ∧ t = deliver (.checksum (checksum frame)) s) ∨
    (∃ p b, i = .construct p b ∧ s.phase = .idle ∧ s.constructed = false ∧ t = deliver .ok (bindClient p b s)) ∨
    (∃ reg v, ((i = .setbrt v ∧ reg = brightnessRegister ∧ Within 0 255 v) ∨
          (i = .showpat v ∧ reg = patternRegister ∧ Within 1 9 v)) ∧ s.phase = .idle ∧ s.constructed = true ∧
        (clientOperands reg v s).Accepted s.params.pmax ∧
        t = transportReturn (transportWrite (emitFrame (clientOperands reg v s)) s)) := by
  cases i with
  | checksum frame => exact .inr (.inr (.inl ⟨frame, rfl, by simpa [exec, execChecksum, eq_comm] using h⟩))
  | construct p b =>
    obtain ⟨h1, h2, h3⟩ := execConstruct_eq_next.1 h
    exact .inr (.inr (.inr (.inl ⟨p, b, rfl, h1, h2, h3⟩)))
  | setbrt v =>
    obtain ⟨h1, h2, ⟨-, h3⟩ | ⟨ho, ⟨f, -, h3⟩ | ⟨ha, h3⟩⟩⟩ := runClient_eq_next.1 h
    · exact .inr (.inl ⟨_, h1, rfl, h3⟩)
    · exact .inr (.inl ⟨_, h1, rfl, h3⟩)
    · exact .inr (.inr (.inr (.inr ⟨_, v, .inl ⟨rfl, rfl, outside_eq_false.1 ho⟩, h1, h2, ha, h3⟩)))
  | showpat v =>
    obtain ⟨h1, h2, ⟨-, h3⟩ | ⟨ho, ⟨f, -, h3⟩ | ⟨ha, h3⟩⟩⟩ := runClient_eq_next.1 h
    · exact .inr (.inl ⟨_, h1, rfl, h3⟩)
    · exact .inr (.inl ⟨_, h1, rfl, h3⟩)
    · exact .inr (.inr (.inr (.inr ⟨_, v, .inr ⟨rfl, rfl, outside_eq_false.1 ho⟩, h1, h2, ha, h3⟩)))
  | _ =>
    obtain ⟨h1, ⟨ha, h2⟩ | ⟨f, -, h2⟩⟩ := runBuild_eq_next.1 h
    · exact .inl ⟨_, ⟨_, ha, rfl⟩, h1, rfl, h2⟩
    · exact .inr (.inl ⟨f, h1, rfl, h2⟩)

/-- Everything a step can do. -/
theorem step_cases {s t : State} (h : step s = .next t) :
    (s.phase = .writing ∧ t = transportReturn s) ∨
    (s.phase = .idle ∧ s.presented = [] ∧ t = s) ∨
    (∃ i rest, s.phase = .idle ∧ s.presented = i :: rest ∧ i.presentable = true ∧ exec i (s.takeCommand rest) = .next t) := by
  unfold step at h
  split at h
  · exact .inl ⟨‹_›, by simpa using h.symm⟩
  · split at h
    · exact .inr (.inl ⟨‹_›, ‹_›, by simpa using h.symm⟩)
    · split at h
      · exact .inr (.inr ⟨_, _, ‹_›, ‹_›, ‹_›, h⟩)
      · simp at h

end Sys2Proof.Machine
end

