-- ==== Sys2Proof/Laws/Frame.lean ====
section
/-! SUPPORT. The emitted frame and its reading: the arithmetic of the transformed operands (R56), the parts of an emitted frame, the
agreement of the field table's layout with the emission, what each field is read back as, and the inversion of `decode`. -/

namespace Sys2Proof.Machine

/-! ### The transformed operands -/

/-- Byte i of a register address by division (R78). -/
theorem addressByte_eq (r : Int) (i : Nat) (h : 0 ≤ r) : addressByte r i = byteOfInt (r / 2 ^ (8 * i) % 256) := by
  obtain ⟨n, rfl⟩ := Int.eq_ofNat_of_zero_le h
  apply BitVec.eq_of_toNat_eq
  have hw : 8 * i + 7 - 8 * i + 1 = 8 := by omega
  simp only [addressByte, byteOfInt, toNat_byteOfNat, bitSlice, Nat.shiftRight_eq_div_pow, BitVec.toNat_ofInt,
    Int.toNat_natCast, hw]
  norm_cast

/-- The low length byte by remainder (R79). -/
theorem lengthLow_eq (r : Int) (h : 0 ≤ r) : lengthLow r = byteOfInt (r % 256) := by
  obtain ⟨n, rfl⟩ := Int.eq_ofNat_of_zero_le h
  apply BitVec.eq_of_toNat_eq
  have hm := Nat.and_two_pow_sub_one_eq_mod n 8
  norm_num at hm
  simp only [lengthLow, byteOfInt, toNat_byteOfNat, BitVec.toNat_ofInt, Int.toNat_natCast, hm]
  omega

/-- "which is `0x00` for every operand value" (R79). -/
theorem lengthHigh_eq (r : Int) : lengthHigh r = 0 := by
  apply BitVec.eq_of_toNat_eq
  have hm := Nat.and_two_pow_sub_one_eq_mod r.toNat 8
  norm_num at hm
  simp only [lengthHigh, toNat_byteOfNat, Nat.shiftRight_eq_div_pow, hm]
  show _ = 0
  omega

/-- The four little-endian bytes of a 32-bit address are its address bytes. -/
theorem littleEndian_address (r : Int) (h : Within 0 0xFFFFFFFF r) :
    littleEndian 4 r.toNat = [addressByte r 0, addressByte r 1, addressByte r 2, addressByte r 3] := by
  obtain ⟨n, rfl⟩ := Int.eq_ofNat_of_zero_le h.1
  simp only [littleEndian, addressByte, Int.toNat_natCast, bitSlice, Nat.shiftRight_eq_div_pow]
  refine congrArg₂ _ ?_ (congrArg₂ _ ?_ (congrArg₂ _ ?_ (congrArg₂ _ ?_ rfl))) <;> apply BitVec.eq_of_toNat_eq <;>
    simp only [toNat_byteOfNat] <;> omega

/-- The two little-endian bytes of the masked length are its length bytes. -/
theorem littleEndian_length (r : Int) (h : Within 0 65535 r) :
    littleEndian 2 (r.toNat % 256) = [lengthLow r, lengthHigh r] := by
  have h0 := h.1
  rw [lengthHigh_eq, lengthLow_eq r h0]
  simp only [littleEndian]
  refine congrArg₂ _ ?_ (congrArg₂ _ ?_ rfl) <;> apply BitVec.eq_of_toNat_eq
  · simp only [toNat_byteOfNat, byteOfInt, BitVec.toNat_ofInt]; omega
  · simp only [toNat_byteOfNat]; show _ = 0; omega

/-! ### The parts of an emitted frame -/

/-- Header, payload and checksum. -/
theorem emitFrame_split (o : BuildOperands) :
    emitFrame o =
      emitHeader o ++ (o.payload.map byteOfInt ++ [lowByte (checksum (bodyOf o)), highByte (checksum (bodyOf o))]) := by
  simp [emitFrame_eq, bodyOf]

/-- Everything before the checksum. -/
theorem take_emitFrame (o : BuildOperands) : (emitFrame o).take (18 + o.payload.length) = bodyOf o := by
  rw [emitFrame_eq, List.take_append_of_le_length (by simp), List.take_of_length_le (by simp)]

/-- A header byte of the frame. -/
theorem byteAt_emitFrame (o : BuildOperands) (k : Nat) (h : k < 18) :
    byteAt (emitFrame o) k = byteAt (emitHeader o) k := by
  simp only [emitFrame_split, byteAt, List.getD_eq_getElem?_getD]
  rw [List.getElem?_append_left (by simpa using h)]

/-- S of a frame is the header's part and the payload's. -/
theorem checksumSum_bodyOf (o : BuildOperands) :
    checksumSum (bodyOf o) = byteSum ((emitHeader o).drop 3) + byteSum (o.payload.map byteOfInt) := by
  rw [checksumSum, bodyOf, checksumStart, List.drop_append_of_le_length (by simp), byteSum_append]

/-- The payload's part of S is the sum of the payload (R87). -/
theorem byteSum_payload (p : List Int) (h : ∀ b ∈ p, Within 0 255 b) : (byteSum (p.map byteOfInt) : Int) = p.sum := by
  induction p with
  | nil => rfl
  | cons b bs ih =>
    have hb := toNat_byteOfInt (h b (by simp))
    have ht := ih fun c hc => h c (by simp [hc])
    simp only [List.map_cons, byteSum_cons, List.sum_cons]
    push_cast
    rw [hb, ht]

/-- Equal sums from offset 3 on give equal checksums. -/
theorem checksum_congr {F G : List Byte} (h : byteSum (F.drop 3) = byteSum (G.drop 3)) : checksum F = checksum G := by
  simp [checksum, checksumSum, checksumStart, h]

/-! ### The field table and the emission -/

/-- The field table lays out what the steps emit (R46, R64). -/
theorem layoutBody_eq {o : BuildOperands} (h : o.Fits) : layoutBody o = bodyOf o := by
  rw [layoutBody, littleEndian_address _ h.2.2.1, littleEndian_length _ h.2.2.2.1, bodyOf, emitHeader_eq]
  cases o.isCommand <;> cases o.isWrite <;> simp [portIndex]

theorem layoutFrame_eq {o : BuildOperands} (h : o.Fits) : layoutFrame o = emitFrame o := by
  rw [layoutFrame, layoutBody_eq h, littleEndian_checksum, emitFrame_eq]

/-- The encoder has a frame exactly for operands that fit, and it is the emitted one. -/
theorem encodeBuild_eq_some {o : BuildOperands} {F : List Byte} : encodeBuild o = some F ↔ o.Fits ∧ F = emitFrame o := by
  unfold encodeBuild
  split
  · rename_i h
    rw [layoutFrame_eq h, Option.some.injEq, eq_comm (a := emitFrame o)]
    exact ⟨fun hF => ⟨h, hF⟩, fun hF => hF.2⟩
  · rename_i h
    simp [h]

/-! ### Reading the fields back -/

theorem sequenceOf_emitFrame {o : BuildOperands} (h : o.Fits) : sequenceOf (emitFrame o) = o.sequence := by
  rw [sequenceOf, byteAt_emitFrame _ _ (by decide), emitHeader_eq]
  exact intOfByte_byteOfInt h.1

theorem ackOf_emitFrame {o : BuildOperands} (h : o.Fits) : ackOf (emitFrame o) = o.ack := by
  rw [ackOf, byteAt_emitFrame _ _ (by decide), emitHeader_eq]
  exact intOfByte_byteOfInt h.2.2.2.2.2

theorem portOf_emitFrame {o : BuildOperands} (h : o.Fits) : portOf (emitFrame o) = o.port := by
  have hp := h.2.1
  have hb : intOfByte (byteOfInt (o.port - 1)) = o.port - 1 := intOfByte_byteOfInt (by simp only [Within] at *; omega)
  rw [portOf, byteAt_emitFrame _ _ (by decide), emitHeader_eq]
  show intOfByte (byteOfInt (o.port - 1)) + 1 = _
  rw [hb]
  omega

theorem registerOf_emitFrame {o : BuildOperands} (h : o.Fits) : registerOf (emitFrame o) = o.registerAddress := by
  have h0 := h.2.2.1
  have hb : [byteAt (emitHeader o) 12, byteAt (emitHeader o) 13, byteAt (emitHeader o) 14, byteAt (emitHeader o) 15] =
      littleEndian 4 o.registerAddress.toNat := by
    rw [littleEndian_address _ h0, emitHeader_eq]; rfl
  rw [registerOf, byteAt_emitFrame _ _ (by decide), byteAt_emitFrame _ _ (by decide), byteAt_emitFrame _ _ (by decide),
    byteAt_emitFrame _ _ (by decide), hb, littleEndianValue_littleEndian]
  simp only [Within] at h0
  norm_num
  omega

theorem lengthOf_emitFrame {o : BuildOperands} (h : o.Fits) : lengthOf (emitFrame o) = o.payloadLength % 256 := by
  rw [lengthOf, byteAt_emitFrame _ _ (by decide), emitHeader_eq]
  show intOfByte (lengthLow o.payloadLength) = _
  rw [lengthLow_eq _ h.2.2.2.1.1]
  exact intOfByte_byteOfInt (by simp only [Within]; omega)

theorem payloadOf_emitFrame {o : BuildOperands} (h : o.Fits) : payloadOf (emitFrame o) = o.payload := by
  rw [payloadOf, headerLength, emitFrame_split, List.drop_left' (by simp), ← emitFrame_split, length_emitFrame,
    frameOverhead, Nat.add_sub_cancel_left, List.take_left' (by simp), List.map_map]
  conv_rhs => rw [← List.map_id o.payload]
  exact List.map_congr_left fun b hb => intOfByte_byteOfInt (h.2.2.2.2.1 b hb)

/-! ### The rows -/

/-- A row covers a frame when it does so at each of the 18 header bytes. -/
theorem range_headerLength :
    List.range headerLength = [0, 1, 2, 3, 4, 5, 6, 7, 8, 9, 10, 11, 12, 13, 14, 15, 16, 17] := rfl

/-- A client row is the command-write row with seven header bytes more fixed (R57). -/
theorem clientRow_covers (r : Row) (hr : r = setbrtRow ∨ r = showpatRow) (F : List Byte) :
    r.covers F = (commandWriteRow.covers F && (byteAt F 2 == 0) && (byteAt F 12 == byteAt r.pattern 12) &&
      (byteAt F 13 == byteAt r.pattern 13) && (byteAt F 14 == 0) && (byteAt F 15 == 2) && (byteAt F 16 == 1)) := by
  have hff : ∀ x : Byte, x &&& 0xFF = x := fun _ => BitVec.and_allOnes
  have h0 : ∀ x : Byte, x &&& 0 = 0 := fun _ => BitVec.and_zero
  rcases hr with rfl | rfl <;> rw [Bool.eq_iff_iff]
  all_goals
    simp only [Row.covers, range_headerLength, List.all_cons, List.all_nil, Bool.and_eq_true, beq_iff_eq]
    simp only [byteAt, setbrtRow, showpatRow, clientMask, commandWriteRow, shapeMask, List.getD_cons_zero,
      List.getD_cons_succ, hff, h0]
    tauto

/-! ### What an instruction hands over -/

/-- A frame handed over is a client command's, on an idle constructed block with accepted operands. -/
theorem exec_hands_over {i : Instr} {s t : State} {h : Handed} (he : exec i s = .next t)
    (hh : t.handed = s.handed ++ [h]) :
    ∃ reg v, ((i = .setbrt v ∧ reg = brightnessRegister ∧ Within 0 255 v) ∨
        (i = .showpat v ∧ reg = patternRegister ∧ Within 1 9 v)) ∧ s.phase = .idle ∧ s.constructed = true ∧
      (clientOperands reg v s).Accepted s.params.pmax ∧ h = ⟨s.transport, emitFrame (clientOperands reg v s)⟩ ∧
      t = transportReturn (transportWrite (emitFrame (clientOperands reg v s)) s) := by
  rcases exec_cases he with ⟨o, -, -, -, rfl⟩ | ⟨f, -, -, rfl⟩ | ⟨F, -, rfl⟩ | ⟨p, b, -, -, -, rfl⟩ |
    ⟨reg, v, h1, h2, h3, h4, rfl⟩
  · simp at hh
  · simp at hh
  · simp at hh
  · simp at hh
  · refine ⟨reg, v, h1, h2, h3, h4, ?_, rfl⟩
    rcases transportReturn_cases (transportWrite (emitFrame (clientOperands reg v s)) s) with
      ⟨-, hr⟩ | ⟨n, rest, -, hr⟩ | ⟨e, rest, -, hr⟩ <;>
      rw [hr] at hh <;> simp at hh <;> exact hh.symm

end Sys2Proof.Machine
end

