-- ==== Sys2Proof/Laws/Params.lean ====
section
/-! SUPPORT. The OPEN parameters: what their legality says, and what a port of a given width carries (R7, R53). -/

namespace Sys2Proof

/-- Legal port widths, as one conjunction. -/
theorem OperandWidths.legal_iff (w : OperandWidths) : w.legal = true ↔
    8 ≤ w.sequence ∧ 32 ≤ w.registerAddress ∧ 16 ≤ w.payloadLength ∧ 8 ≤ w.payload ∧ 9 ≤ w.port ∧ 1 ≤ w.isCommand ∧
      1 ≤ w.isWrite ∧ 8 ≤ w.ack ∧ 8 ≤ w.level ∧ 4 ≤ w.patternCode ∧ 9 ≤ w.portInit := by
  simp only [OperandWidths.legal, Bool.and_eq_true, decide_eq_true_eq, and_assoc]
  rfl

/-- Ports at least as wide as declared are legal. -/
theorem OperandWidths.legal_declared_plus (extra : OperandWidths) : (OperandWidths.declared.plus extra).legal = true := by
  rw [OperandWidths.legal_iff]
  simp only [OperandWidths.plus, OperandWidths.declared]
  omega

theorem Params.legal_iff (p : Params) : p.legal = true ↔ 1 ≤ p.pmax ∧ p.opw.legal = true := by
  simp [Params.legal]

/-- A port of at least n bits carries every value from a non-negative bound up to a bound below 2^n. -/
theorem Carries.of_within {n width : Nat} {lo hi v : Int} (h : Within lo hi v) (hlo : 0 ≤ lo) (hhi : hi < 2 ^ n)
    (hw : n ≤ width) : Carries width v := by
  have hp : (2 : Int) ^ n ≤ 2 ^ width := pow_le_pow_right₀ (by norm_num) hw
  simp only [Within] at h
  constructor <;> omega

end Sys2Proof
end

