-- ==== Sys2Proof/Laws/PerInstr.lean ====
section
/-! SUPPORT. Statements about the instruction as syntax, one lemma per constructor.  Family `EncodeLength`: the frame an instruction
stands for, where it has one, is a whole frame: 20 bytes and its payload (R46). -/

open Sys2Proof Sys2Proof.Machine

namespace Sys2Proof.Laws.EncodeLength

/-- The frame of an instruction has the 20 bytes of header and checksum and one byte for each payload byte. -/
def Statement (i : Instr) : Prop :=
  ∀ (seq : Byte) (port : Int) (F : List Byte), encodeWith seq port i = some F →
    F.length = 20 + (match i with
      | .build _ _ _ payload _ _ _ _ => payload.length
      | .buildCommandWrite _ _ _ payload _ _ => payload.length
      | .buildCommandRead _ _ _ payload _ _ => payload.length
      | .buildResponseWrite _ _ _ payload _ _ => payload.length
      | .buildResponseRead _ _ _ payload _ _ => payload.length
      | .setbrt _ => 1
      | .showpat _ => 1
      | .construct _ _ => 0
      | .checksum _ => 0)

/-- The frame of a BUILD has 20 + N bytes. -/
theorem length_encodeBuild {o : BuildOperands} {F : List Byte} (h : encodeBuild o = some F) :
    F.length = 20 + o.payload.length := by
  rw [(encodeBuild_eq_some.1 h).2, length_emitFrame]

theorem build (sequence registerAddress payloadLength : Int) (payload : List Int) (port : Int)
    (isCommand isWrite : Bool) (ack : Int) :
    Statement (.build sequence registerAddress payloadLength payload port isCommand isWrite ack) :=
  fun _ _ _ h => length_encodeBuild h

theorem buildCommandWrite (sequence registerAddress payloadLength : Int) (payload : List Int) (port ack : Int) :
    Statement (.buildCommandWrite sequence registerAddress payloadLength payload port ack) :=
  fun _ _ _ h => length_encodeBuild h

theorem buildCommandRead (sequence registerAddress payloadLength : Int) (payload : List Int) (port ack : Int) :
    Statement (.buildCommandRead sequence registerAddress payloadLength payload port ack) :=
  fun _ _ _ h => length_encodeBuild h

theorem buildResponseWrite (sequence registerAddress payloadLength : Int) (payload : List Int) (port ack : Int) :
    Statement (.buildResponseWrite sequence registerAddress payloadLength payload port ack) :=
  fun _ _ _ h => length_encodeBuild h

theorem buildResponseRead (sequence registerAddress payloadLength : Int) (payload : List Int) (port ack : Int) :
    Statement (.buildResponseRead sequence registerAddress payloadLength payload port ack) :=
  fun _ _ _ h => length_encodeBuild h

theorem setbrt (level : Int) : Statement (.setbrt level) := fun _ _ _ h => length_encodeBuild h

theorem showpat (patternCode : Int) : Statement (.showpat patternCode) := by
  intro seq port F h
  rw [encodeWith] at h
  split at h
  · exact length_encodeBuild h
  · simp at h

theorem construct (portInit : Int) (transport : Nat) : Statement (.construct portInit transport) := by
  intro seq port F h
  simp [encodeWith] at h

theorem checksum (frame : List Byte) : Statement (.checksum frame) := by
  intro seq port F h
  simp [encodeWith] at h

end Sys2Proof.Laws.EncodeLength
end

