-- ==== Sys2Proof/Machine/Flags.lean ====
section
/-! DEFINITION. "The block has no status flags, condition codes or predicates" (R20): there is no flag computation to define, and
this file defines nothing.  The one place where bits are lost without an indication is `checksum` (R85) in Machine/Checksum.lean. -/
end

