-- ==== Sys2Proof/Tests/Slice0.lean ====
section
/-! SUPPORT. The model's own tests.  Expected values are the vectors of spec/95_test_vectors.md (named V, K, E, T, P as there), the
rows of spec/opcode_table.json, or counted from the field table of R46 by hand.  The witnesses at the end meet the hypotheses of each
statement of Certificates/Slice0/Obligations.lean, at the ends of the ranges its clauses name. -/

open Sys2Proof Sys2Proof.Machine Sys2Proof.Claims

namespace Sys2Proof.Tests

/-- A client with PORT `port`, SEQ `seq`, PMAX = 4 (2.3) and SEQ_INC = true, whose transport will return `replies`. -/
def client (port : Int) (seq : Byte) (replies : List TransportReply) : State :=
  { State.resetWith ⟨4, true, .declared⟩ port 7 with seq := seq, replies := replies }

/-- The same with SEQ_INC = false and PMAX = 200. -/
def wide : State := State.resetWith ⟨200, false, .declared⟩ 1 7

/-- What a result shows of the registers and the interfaces: SEQ, PORT, the frames handed over, the outcomes. -/
def shows (r : Result) : Option (Byte × Int × List (List Byte) × List CommandOutcome) :=
  match r with
  | .next t => some (t.seq, t.port, t.handed.map Handed.frame, t.delivered)
  | .fault _ => none
  | .refused _ => none

/-- The refusal of a result. -/
def refusalOf (r : Result) : Option Refusal :=
  match r with
  | .next _ => none
  | .fault _ => none
  | .refused q => some q

/-! ### WellFormed refuses an ill-formed term for each check -/

theorem test_wf_accepts : Instr.wellFormed 4 (.build 255 0xFFFFFFFF 65535 [0, 255] 256 false false 255) = true := by decide
theorem test_wf_sequence : Instr.wellFormed 4 (.build 256 0 0 [] 1 true true 0) = false := by decide
theorem test_wf_port : Instr.wellFormed 4 (.buildCommandWrite 0 0 0 [] 0 0) = false := by decide
theorem test_wf_port_high : Instr.wellFormed 4 (.buildCommandRead 0 0 0 [] 257 0) = false := by decide
theorem test_wf_register : Instr.wellFormed 4 (.buildCommandRead 0 0x100000000 0 [] 1 0) = false := by decide
theorem test_wf_length : Instr.wellFormed 4 (.buildResponseWrite 0 0 65536 [] 1 0) = false := by decide
theorem test_wf_payload_byte : Instr.wellFormed 4 (.buildResponseRead 0 0 0 [0, -1] 1 0) = false := by decide
theorem test_wf_payload_size : Instr.wellFormed 4 (.build 0 0 0 [1, 2, 3, 4, 5] 1 true true 0) = false := by decide
theorem test_wf_ack : Instr.wellFormed 4 (.build 0 0 0 [] 1 true true 256) = false := by decide
theorem test_wf_level : Instr.wellFormed 4 (.setbrt 256) = false := by decide
theorem test_wf_pattern : Instr.wellFormed 4 (.showpat 0) = false := by decide
theorem test_wf_pattern_high : Instr.wellFormed 4 (.showpat 10) = false := by decide
theorem test_wf_construct : Instr.wellFormed 4 (.construct 257 0) = false := by decide
theorem test_wf_checksum : Instr.wellFormed 4 (.checksum (List.replicate 17 0)) = false := by decide

/-- R53: "a 9-bit port carries 0 and 257 to 511", "a 4-bit port carries 0 and 10 to 15", and ports of the declared width of the other
operands carry no illegal value. -/
theorem test_carried_by_declared :
    Instr.carriedBy .declared (.buildCommandWrite 255 0xFFFFFFFF 65535 [255] 511 255) = true ∧
    Instr.carriedBy .declared (.buildCommandWrite 0 0 0 [] 512 0) = false ∧
    Instr.carriedBy .declared (.buildCommandWrite 256 0 0 [] 1 0) = false ∧
    Instr.carriedBy .declared (.buildCommandWrite 0 0 0 [256] 1 0) = false ∧
    Instr.carriedBy .declared (.showpat 15) = true ∧ Instr.carriedBy .declared (.showpat 16) = false ∧
    Instr.carriedBy .declared (.setbrt 256) = false ∧ Instr.carriedBy .declared (.setbrt (-1)) = false := by
  refine ⟨?_, ?_, ?_, ?_, ?_, ?_, ?_, ?_⟩ <;> decide

/-- R7: a port narrower than declared is no legal parameter. -/
theorem test_widths_legal : OperandWidths.declared.legal = true ∧
    ({ OperandWidths.declared with patternCode := 3 } : OperandWidths).legal = false := by decide

/-! ### Decoding: frames written out from the spec -/

/-- V20: the marker's bytes inside a frame are no marker. -/
theorem test_decode_command_write : decode [0x55, 0xAA, 0x00, 0x00, 0xFE, 0x00, 0x01, 0x00, 0xFF, 0xFF, 0x01, 0x00, 0x55, 0xAA, 0x00, 0x00,
    0x02, 0x00, 0x55, 0xAA, 0x53, 0x5A] = .ok (.buildCommandWrite 0 0xAA55 2 [0x55, 0xAA] 1 0) := rfl

/-- V12a. -/
theorem test_decode_command_read : decode [0x55, 0xAA, 0x00, 0x00, 0xFE, 0x00, 0x01, 0x00, 0xFF, 0xFF, 0x00, 0x00, 0x01, 0x01, 0x00, 0x02,
    0x01, 0x00, 0x57, 0x58] = .ok (.buildCommandRead 0 0x02000101 1 [] 1 0) := rfl

/-- By the field table: sequence 3, port 16, address 0x01020304, declared length 2, payload 9 8, acknowledgement 0x80. -/
theorem test_decode_response_write : decode [0xAA, 0x55, 0x80, 0x03, 0xFE, 0x00, 0x01, 0x0F, 0x00, 0x00, 0x01, 0x00, 0x04, 0x03, 0x02, 0x01,
    0x02, 0x00, 0x09, 0x08, 0x84, 0x56] = .ok (.buildResponseWrite 3 0x01020304 2 [9, 8] 16 0x80) := rfl

/-- V10. -/
theorem test_decode_response_read : decode [0xAA, 0x55, 0x00, 0x00, 0xFE, 0x00, 0x01, 0x00, 0x00, 0x00, 0x00, 0x00, 0x00, 0x00, 0x00, 0x00,
    0x00, 0x00, 0x54, 0x56] = .ok (.buildResponseRead 0 0 0 [] 1 0) := rfl

/-- V2. -/
theorem test_decode_setbrt : decode [0x55, 0xAA, 0x00, 0x00, 0xFE, 0x00, 0x01, 0x00, 0xFF, 0xFF, 0x01, 0x00, 0x01, 0x00, 0x00, 0x02,
    0x01, 0x00, 0xFF, 0x56, 0x59] = .ok (.setbrt 255) := rfl

/-- V5, slash. -/
theorem test_decode_showpat : decode [0x55, 0xAA, 0x00, 0x00, 0xFE, 0x00, 0x01, 0x00, 0xFF, 0xFF, 0x01, 0x00, 0x01, 0x01, 0x00, 0x02,
    0x01, 0x00, 0x08, 0x60, 0x58] = .ok (.showpat 8) := rfl

/-- V14: with `ack = 1` the frame of SETBRT's register is no client command's. -/
theorem test_decode_ack : decode [0x55, 0xAA, 0x01, 0x00, 0xFE, 0x00, 0x01, 0x00, 0xFF, 0xFF, 0x01, 0x00, 0x01, 0x00, 0x00, 0x02,
    0x01, 0x00, 0x10, 0x67, 0x58] = .ok (.buildCommandWrite 0 0x02000001 1 [0x10] 1 1) := rfl

/-- R48: a non-zero second length byte, a foreign device class, a missing byte. -/
theorem test_decode_rejects :
    decode [0x55, 0xAA, 0, 0, 0xFE, 0, 1, 0, 0xFF, 0xFF, 1, 0, 1, 0, 0, 2, 1, 1, 0, 0] = .error .badLengthHigh ∧
    decode [0x55, 0xAA, 0, 0, 0xFE, 0, 2, 0, 0xFF, 0xFF, 1, 0, 1, 0, 0, 2, 1, 0, 0, 0] = .error .badDeviceClass ∧
    decode [0x55, 0xAA, 0, 0, 0xFE, 0, 1, 0, 0xFF, 0xFF, 1, 0, 1, 0, 0, 2, 1, 0, 0] = .error .tooShort :=
  ⟨rfl, rfl, rfl⟩

/-- The matches of the six rows that fix a shape, as words of the table; and that of the row BUILD, whose marker `00 00` no frame has
(R58). -/
theorem test_decode_table_words :
    decodeTableWord 144 0x1020000010001ffff000100fe0000aa55 = some (.setbrt 0) ∧
    decodeTableWord 144 0x1020001010001ffff000100fe0000aa55 = some (.showpat 0) ∧
    decodeTableWord 144 0x1ffff000100fe0000aa55 = some (.buildCommandWrite 0 0 0 [] 1 0) ∧
    decodeTableWord 144 0xffff000100fe0000aa55 = some (.buildCommandRead 0 0 0 [] 1 0) ∧
    decodeTableWord 144 0x10000000100fe000055aa = some (.buildResponseWrite 0 0 0 [] 1 0) ∧
    decodeTableWord 144 0x100fe000055aa = some (.buildResponseRead 0 0 0 [] 1 0) ∧
    decodeTableWord 144 0x100fe00000000 = none := by decide

/-! ### The meanings, one step each -/

/-- V14: `ack` is in the frame and not in the checksum; nothing reaches the transport. -/
theorem test_build_ack : shows (exec (.build 0 0x02000001 1 [0x10] 1 true true 1) (client 1 9 [])) =
    some (9, 1, [], [.frame [0x55, 0xAA, 0x01, 0x00, 0xFE, 0x00, 0x01, 0x00, 0xFF, 0xFF, 0x01, 0x00, 0x01, 0x00, 0x00, 0x02, 0x01, 0x00,
      0x10, 0x67, 0x58]]) := by decide

/-- E15: the first field in the fixed order is named. -/
theorem test_build_order : shows (exec (.build 300 0x02000001 1 [0] 0 true true 999) (client 1 0 [])) =
    some (0, 1, [], [.validationError .sequence]) := by decide

/-- V7: little-endian address, declared length 291 masked and not compared with N. -/
theorem test_command_write : shows (exec (.buildCommandWrite 0 0x12345678 0x0123 [0xDE, 0xAD, 0xBE] 2 0) (client 1 0 [])) =
    some (0, 1, [], [.frame [0x55, 0xAA, 0x00, 0x00, 0xFE, 0x00, 0x01, 0x01, 0xFF, 0xFF, 0x01, 0x00, 0x78, 0x56, 0x34, 0x12, 0x23, 0x00,
      0xDE, 0xAD, 0xBE, 0xD4, 0x5B]]) := by decide

/-- E12: N > PMAX. -/
theorem test_command_write_long : shows (exec (.buildCommandWrite 0 0x02000001 1 [1, 2, 3, 4, 5] 1 0) (client 1 0 [])) =
    some (0, 1, [], [.validationError .payload]) := by decide

/-- V12b: a read frame that carries a payload. -/
theorem test_command_read : shows (exec (.buildCommandRead 0 0x02000001 1 [0x55] 1 0) (client 1 0 [])) =
    some (0, 1, [], [.frame [0x55, 0xAA, 0x00, 0x00, 0xFE, 0x00, 0x01, 0x00, 0xFF, 0xFF, 0x00, 0x00, 0x01, 0x00, 0x00, 0x02, 0x01, 0x00,
      0x55, 0xAB, 0x58]]) := by decide

/-- V18. -/
theorem test_response_write : shows (exec (.buildResponseWrite 0 0x02000001 1 [0x80] 1 0) (client 1 0 [])) =
    some (0, 1, [], [.frame [0xAA, 0x55, 0x00, 0x00, 0xFE, 0x00, 0x01, 0x00, 0x00, 0x00, 0x01, 0x00, 0x01, 0x00, 0x00, 0x02, 0x01, 0x00,
      0x80, 0xD9, 0x56]]) := by decide

/-- V9, on a block that was never constructed: the core needs no reset (R115). -/
theorem test_response_read : shows (exec (.buildResponseRead 1 0xFFFFFFFF 0 [] 1 0) (State.unconstructed ⟨1, true, .declared⟩)) =
    some (0, 0, [], [.frame [0xAA, 0x55, 0x00, 0x01, 0xFE, 0x00, 0x01, 0x00, 0x00, 0x00, 0x00, 0x00, 0xFF, 0xFF, 0xFF, 0xFF, 0x00, 0x00,
      0x51, 0x5A]]) := by decide

/-- V22 with SEQ = 255: the frame carries 255 and SEQ wraps to 0 (R94). -/
theorem test_setbrt_wraps : shows (exec (.setbrt 17) (client 1 255 [.returned 21])) =
    some (0, 1, [[0x55, 0xAA, 0x00, 0xFF, 0xFE, 0x00, 0x01, 0x00, 0xFF, 0xFF, 0x01, 0x00, 0x01, 0x00, 0x00, 0x02, 0x01, 0x00, 0x11,
      0x67, 0x59]], [.ok]) := by decide

/-- E24: the command's own operand is checked before PORT. -/
theorem test_setbrt_own_first : shows (exec (.setbrt 300) (client 0 0 [.returned 21])) =
    some (0, 0, [], [.validationError .level]) := by decide

/-- T3: the whole frame is handed over, the error passed on, SEQ not incremented. -/
theorem test_showpat_fails : shows (exec (.showpat 1) (client 1 7 [.failed 42])) =
    some (7, 1, [[0x55, 0xAA, 0x00, 0x07, 0xFE, 0x00, 0x01, 0x00, 0xFF, 0xFF, 0x01, 0x00, 0x01, 0x01, 0x00, 0x02, 0x01, 0x00, 0x01,
      0x60, 0x58]], [.transportError 42]) := by decide

/-- E23: the upper bound of PORT. -/
theorem test_showpat_port : shows (exec (.showpat 2) (client 257 0 [.returned 21])) =
    some (0, 257, [], [.validationError .port]) := by decide

/-- P6 step 1: an illegal PORT_INIT is stored. -/
theorem test_construct : shows (exec (.construct 0 3) (State.unconstructed ⟨1, true, .declared⟩)) = some (0, 0, [], [.ok]) := by decide

/-- R116, U13: no second reset. -/
theorem test_construct_twice : refusalOf (exec (.construct 1 3) (client 1 0 [])) = some .alreadyConstructed := by decide

/-- K4: bit 16 of T is dropped. -/
theorem test_checksum_truncates : shows (exec (.checksum ([0, 0, 0, 0x00, 0xFE, 0x00, 0x01, 0x00, 0xFF, 0xFF, 0x01, 0x00, 0x01, 0x00, 0x00,
    0x02, 0xC8, 0x00] ++ List.replicate 200 0xFF)) wide) = some (0, 1, [], [.checksum 0x2056]) := by decide +kernel

/-- K2: the smallest S. -/
theorem test_checksum_smallest : shows (exec (.checksum [9, 9, 9, 0, 0xFE, 0, 1, 0, 0, 0, 0, 0, 0, 0, 0, 0, 0, 0]) wide) =
    some (0, 1, [], [.checksum 0x5654]) := by decide

/-- R121: with no reply the step that runs SETBRT hands the frame over (V2) and delivers nothing. -/
theorem test_step_waits : shows (step (State.present (.setbrt 255) (client 1 0 []))) =
    some (0, 1, [[0x55, 0xAA, 0x00, 0x00, 0xFE, 0x00, 0x01, 0x00, 0xFF, 0xFF, 0x01, 0x00, 0x01, 0x00, 0x00, 0x02, 0x01, 0x00, 0xFF,
      0x56, 0x59]], []) := by decide

/-- R25: what reset leaves. -/
theorem test_reset : State.reset.seq = 0 ∧ State.reset.phase = .idle ∧ State.reset.delivered = [] := by decide

/-! ### Witnesses: the hypotheses of the statements can be met together -/

/-- The smallest operands of R51, and N = 0. -/
def least : BuildOperands := ⟨0, 0, 0, [], 1, false, false, 0⟩

/-- The largest operands of R51, and N = PMAX. -/
def greatest : BuildOperands := ⟨255, 0xFFFFFFFF, 65535, [255, 0, 255, 255], 256, true, true, 255⟩

/-- An idle client. -/
def idle : State := client 1 0 []

/-- BuildDeliversTheFrameOfTheFieldTable, BuildLengthIsTwentyPlusN, and the first clauses of the statements on single fields. -/
theorem witness_accepted : idle.phase = .idle ∧ least.Accepted idle.params.pmax ∧ greatest.Accepted idle.params.pmax := by decide

/-- BuildLengthIsTwentyPlusN at N = 1. -/
theorem witness_length_one : idle.phase = .idle ∧
    BuildOperands.Accepted idle.params.pmax ⟨0, 0x02000001, 1, [0], 1, true, true, 0⟩ ∧ least.payload = [] := by decide

/-- BuildShapesDeliverTheirFrames and the default clause of AckIsByteTwoAndOutsideTheChecksum. -/
theorem witness_shapes : idle.phase = .idle ∧
    BuildOperands.Accepted idle.params.pmax ⟨255, 0xFFFFFFFF, 65535, [255], 256, true, true, 255⟩ ∧
    BuildOperands.Accepted idle.params.pmax ⟨0, 0, 0, [], 1, true, false, 0⟩ ∧
    BuildOperands.Accepted idle.params.pmax ⟨0, 0, 256, [], 1, false, true, 0⟩ ∧
    BuildOperands.Accepted idle.params.pmax ⟨1, 0xFFFFFFFF, 0, [], 1, false, false, 0⟩ ∧
    BuildOperands.Accepted idle.params.pmax ⟨0, 0x02000001, 1, [0], 256, true, true, 0⟩ :=
  ⟨rfl, by decide, by decide, by decide, by decide, by decide⟩

/-- BuildReadsAndWritesNoState. -/
theorem witness_pure : idle.phase = .idle ∧ idle.params.pmax = 4 := by decide

/-- EveryFrameHasTheConstantBytes, EveryFrameBelongsToExactlyItsShapeRow, ChecksumRoundTripsOnEveryFrame: a delivered frame. -/
theorem witness_frame_delivered : ∃ (t : State) (F : List Byte), exec greatest.toInstr idle = .next t ∧
    t.delivered = idle.delivered ++ [.frame F] := ⟨_, _, rfl, rfl⟩

/-- EveryFrameHasTheConstantBytes, ChecksumRoundTripsOnEveryFrame, ChecksumHasTheClosedForm, ReceiverLengthIsRightExactlyWhenDeclaredSo,
OnlySeqUpdateWritesSeq, WrappingAccumulatorComputesTheSameChecksum: a frame handed over, by either client command. -/
theorem witness_frame_handed : (∃ (t : State) (h : Handed), exec (.setbrt 255) (client 256 255 []) = .next t ∧
      t.handed = (client 256 255 []).handed ++ [h]) ∧
    (∃ (t : State) (h : Handed), exec (.showpat 9) (client 1 0 []) = .next t ∧ t.handed = (client 1 0 []).handed ++ [h]) :=
  ⟨⟨_, _, rfl, rfl⟩, ⟨_, _, rfl, rfl⟩⟩

/-- AckIsByteTwoAndOutsideTheChecksum: both ends and just beyond. -/
theorem witness_ack : idle.phase = .idle ∧ greatest.Accepted idle.params.pmax ∧ ((0 : Int) ≤ 0 ∧ (0 : Int) ≤ 255) ∧
    ((0 : Int) ≤ 255 ∧ (255 : Int) ≤ 255) ∧ ((-1 : Int) < 0 ∨ (255 : Int) < -1) ∧ ((256 : Int) < 0 ∨ (255 : Int) < 256) := by decide

/-- SequenceIsByteThree, second clause. -/
theorem witness_sequence : idle.phase = .idle ∧ (({ least with sequence := -1 } : BuildOperands).sequence < 0) ∧
    (255 < ({ least with sequence := 256 } : BuildOperands).sequence) := by decide

/-- PortIndexIsPortMinusOne, second clause: ports 0 and 257. -/
theorem witness_port : idle.phase = .idle ∧ 0 ≤ least.sequence ∧ least.sequence ≤ 255 ∧
    (({ least with port := 0 } : BuildOperands).port < 1) ∧ (256 < ({ least with port := 257 } : BuildOperands).port) := by decide

/-- RegisterAddressIsLittleEndian, second clause. -/
theorem witness_register : idle.phase = .idle ∧ 0 ≤ least.sequence ∧ least.sequence ≤ 255 ∧ 1 ≤ least.port ∧ least.port ≤ 256 ∧
    (({ least with registerAddress := -1 } : BuildOperands).registerAddress < 0) ∧
    (0xFFFFFFFF < ({ least with registerAddress := 0x100000000 } : BuildOperands).registerAddress) := by decide

/-- DataLengthKeepsTheMaskingQuirk: declared lengths 255 and 256 are accepted, -1 and 65536 are not. -/
theorem witness_length : idle.phase = .idle ∧ 0 ≤ least.sequence ∧ least.sequence ≤ 255 ∧ 1 ≤ least.port ∧ least.port ≤ 256 ∧
    0 ≤ least.registerAddress ∧ least.registerAddress ≤ 0xFFFFFFFF ∧
    ({ least with payloadLength := 255 } : BuildOperands).Accepted idle.params.pmax ∧
    ({ least with payloadLength := 256 } : BuildOperands).Accepted idle.params.pmax ∧
    (({ least with payloadLength := -1 } : BuildOperands).payloadLength < 0) ∧
    (65535 < ({ least with payloadLength := 65536 } : BuildOperands).payloadLength) := by decide

/-- DeclaredLengthIsNotComparedWithThePayload: another payload of PMAX bytes. -/
theorem witness_other_payload : idle.phase = .idle ∧ least.Accepted idle.params.pmax ∧ [0, 1, 2, 255].length ≤ idle.params.pmax ∧
    (∀ b ∈ ([0, 1, 2, 255] : List Int), 0 ≤ b ∧ b ≤ 255) := by decide

/-- PayloadBytesFollowTheHeader, second clause: PMAX + 1 bytes, -1, 256. -/
theorem witness_bad_payload : idle.phase = .idle ∧ least.Accepted idle.params.pmax ∧ idle.params.pmax < [0, 0, 0, 0, 0].length ∧
    (∃ b ∈ ([0, -1] : List Int), b < 0 ∨ 255 < b) ∧ (∃ b ∈ ([256] : List Int), b < 0 ∨ 255 < b) := by decide

/-- ChecksumIsTheBiasedSumMod65536 and WrappingAccumulatorComputesTheSameChecksum: operands that fit, and a T that passes 0xFFFF with
the 162 bytes of V16. -/
theorem witness_fits : least.Fits ∧ greatest.Fits ∧
    0xFFFF < sumFrom3 (bodyBytes { greatest with payload := List.replicate 162 255 }) + 0x5555 := by decide +kernel

/-- WrappingAccumulatorComputesTheSameChecksum, ChecksumIsBlindToOrderAndToTheFirstThreeBytes: a reordering (V19) and a change that
cancels. -/
theorem witness_reordered : [(1 : Byte), 2, 3].length = 3 ∧ [(9 : Byte), 9, 9].length = 3 ∧ [(0x12 : Byte), 0x34].Perm [0x34, 0x12] ∧
    ([(1 : Byte), 3].map BitVec.toNat).sum = ([(2 : Byte), 2].map BitVec.toNat).sum ∧ idle.phase = .idle ∧
    ({ least with payload := [0x12, 0x34] } : BuildOperands).Accepted idle.params.pmax ∧ [(0x12 : Int), 0x34].Perm [0x34, 0x12] := by
  decide

/-- ChecksumHasTheClosedForm: a command-write frame. -/
theorem witness_command_write : greatest.Accepted idle.params.pmax ∧ greatest.isCommand = true ∧ greatest.isWrite = true := by decide

/-- RangeChecksRaiseInTableOrder: each row of BUILD raises somewhere (E1 to E14), and no row on operands at the ends of the ranges. -/
theorem witness_build_checks : idle.phase = .idle ∧
    buildFailure 4 { least with sequence := 256 } = some .sequence ∧ buildFailure 4 { least with port := 0 } = some .port ∧
    buildFailure 4 { least with registerAddress := -1 } = some .registerAddress ∧
    buildFailure 4 { least with payloadLength := 65536 } = some .payloadLength ∧
    buildFailure 4 { least with payload := [0, 0, 0, 0, 0] } = some .payload ∧
    buildFailure 4 { least with ack := -1 } = some .ack ∧
    buildFailure 4 least = none ∧ buildFailure 4 greatest = none := by decide

/-- RangeChecksRaiseInTableOrder, SetbrtWritesTheBrightnessFrame, ShowpatWritesThePatternFrame: the clauses that raise. -/
theorem witness_client_checks : (client 0 0 []).phase = .idle ∧ (client 0 0 []).constructed = true ∧
    (client 0 0 []).port < 1 ∧ 256 < (client 257 0 []).port ∧ ((-1 : Int) < 0) ∧ ((255 : Int) < 256) ∧
    ((0 : Int) ≤ 0 ∧ (0 : Int) ≤ 255) ∧ ((0 : Int) ≤ 255 ∧ (255 : Int) ≤ 255) ∧ ((0 : Int) < 1) ∧ ((9 : Int) < 10) ∧
    ((1 : Int) ≤ 1 ∧ (1 : Int) ≤ 9) ∧ ((1 : Int) ≤ 9 ∧ (9 : Int) ≤ 9) := by decide

/-- A client is ready at both ends of PORT, and with PMAX at its least. -/
theorem witness_ready : Ready (client 1 0 []) ∧ Ready (client 256 255 []) ∧ Ready (State.resetWith ⟨1, false, .declared⟩ 1 0) :=
  ⟨⟨rfl, rfl, by decide, by decide⟩, ⟨rfl, rfl, by decide, by decide⟩, ⟨rfl, rfl, by decide, by decide⟩⟩

/-- The legal client commands at both ends of their ranges. -/
theorem witness_legal : legalClient (.setbrt 0) 0 ∧ legalClient (.setbrt 255) 255 ∧ legalClient (.showpat 1) 1 ∧
    legalClient (.showpat 9) 9 :=
  ⟨.inl ⟨rfl, by decide⟩, .inl ⟨rfl, by decide⟩, .inr ⟨rfl, by decide⟩, .inr ⟨rfl, by decide⟩⟩

/-- SetbrtWritesTheBrightnessFrame, ShowpatWritesThePatternFrame, PatternNamesAreTheAcceptedCodes: the transport answers Ok, and the
same with a failure (TransportFailureIsPassedOnUnchanged). -/
theorem witness_replies : (Ready (client 1 0 [.returned 21]) ∧ (client 1 0 [.returned 21]).replies = .returned 21 :: []) ∧
    (Ready (client 256 255 [.failed 5]) ∧ (client 256 255 [.failed 5]).replies = .failed 5 :: []) :=
  ⟨⟨⟨rfl, rfl, by decide, by decide⟩, rfl⟩, ⟨⟨rfl, rfl, by decide, by decide⟩, rfl⟩⟩

/-- ErrorsLeaveTheRegistersAlone: a validation error, a transport error, and a write that fails in a later step. -/
theorem witness_errors :
    (∃ t, exec (.setbrt 256) (client 1 0 []) = .next t ∧ t.delivered = (client 1 0 []).delivered ++ [.validationError .level]) ∧
    (∃ t, exec (.setbrt 255) (client 1 0 [.failed 5]) = .next t ∧
      t.delivered = (client 1 0 [.failed 5]).delivered ++ [.transportError 5]) ∧
    (∃ s t : State, s.phase = .writing ∧ step s = .next t ∧ t.delivered = s.delivered ++ [.transportError 5]) :=
  ⟨⟨_, rfl, rfl⟩, ⟨_, rfl, rfl⟩, ⟨{ client 1 0 [.failed 5] with phase := .writing }, _, rfl, rfl, rfl⟩⟩

/-- ACommandAfterAnErrorCanSucceed: after a failed write, the same command again. -/
theorem witness_after_error : Ready (client 1 0 [.failed 5]) ∧ legalClient (.setbrt 255) 255 ∧
    ∃ t, exec (.setbrt 255) (client 1 0 [.failed 5]) = .next t ∧
      t.delivered = (client 1 0 [.failed 5]).delivered ++ [.transportError 5] :=
  ⟨⟨rfl, rfl, by decide, by decide⟩, .inl ⟨rfl, by decide⟩, _, rfl, rfl⟩

/-- ClientCommandBlocksUntilTheWriteReturns, ClientCommandsExpandToBuild: a ready client whose write has not returned, and the register
of each command. -/
theorem witness_blocks : Ready idle ∧ legalClient (.setbrt 0) 0 ∧ idle.replies = [] ∧
    ((∃ x, Instr.setbrt 0 = .setbrt x) → (0x02000001 : Int) = 0x02000001) ∧
    ((∃ x, Instr.setbrt 0 = .showpat x) → (0x02000001 : Int) = 0x02000101) :=
  ⟨⟨rfl, rfl, by decide, by decide⟩, .inl ⟨rfl, by decide⟩, rfl, fun _ => rfl, fun ⟨_, h⟩ => by simp at h⟩

/-- ClientCommandsExpandToBuild for SHOWPAT. -/
theorem witness_expands : Ready idle ∧ legalClient (.showpat 9) 9 ∧
    ((∃ x, Instr.showpat 9 = .setbrt x) → (0x02000101 : Int) = 0x02000001) ∧
    ((∃ x, Instr.showpat 9 = .showpat x) → (0x02000101 : Int) = 0x02000101) :=
  ⟨⟨rfl, rfl, by decide, by decide⟩, .inr ⟨rfl, by decide⟩, fun ⟨_, h⟩ => by simp at h, fun _ => rfl⟩

/-- OnlySeqUpdateWritesSeq, PortAndBindingAreFixedAtConstruction: an instruction that is not CONSTRUCT ends with Ok, and one that does
not; and a step that does. -/
theorem witness_seq :
    (∃ t, (∀ p b, Instr.setbrt 1 ≠ .construct p b) ∧ (client 1 255 [.returned 0]).constructed = true ∧
      exec (.setbrt 1) (client 1 255 [.returned 0]) = .next t ∧ t.delivered = (client 1 255 [.returned 0]).delivered ++ [.ok]) ∧
    (∃ t, exec (.setbrt 1) (client 1 255 []) = .next t ∧ t.delivered ≠ (client 1 255 []).delivered ++ [.ok]) ∧
    (∃ s t : State, s.constructed = true ∧ step s = .next t ∧ t.delivered = s.delivered ++ [.ok]) :=
  ⟨⟨_, by simp, rfl, rfl, rfl⟩, ⟨_, rfl, by decide⟩,
    ⟨State.present (.setbrt 1) (client 1 255 [.returned 0]), _, rfl, rfl, rfl⟩⟩

/-- ConstructSetsPortAndClearsSeq: before construction, and CONSTRUCT with each illegal PORT_INIT next to the range. -/
theorem witness_construct : (State.unconstructed ⟨4, true, .declared⟩).phase = .idle ∧ (State.unconstructed ⟨4, true, .declared⟩).constructed = false ∧
    (∃ t, exec (.construct 0 3) (State.unconstructed ⟨4, true, .declared⟩) = .next t) ∧ ((0 : Int) < 1 ∨ (256 : Int) < 0) ∧
    (∃ t, exec (.construct 257 3) (State.unconstructed ⟨4, true, .declared⟩) = .next t) ∧ ((257 : Int) < 1 ∨ (256 : Int) < 257) :=
  ⟨rfl, rfl, ⟨_, rfl⟩, by decide, ⟨_, rfl⟩, by decide⟩

/-- ConstructIsFirstAndOnce. -/
theorem witness_once : idle.phase = .idle ∧ idle.constructed = true ∧ isClient (.setbrt 1) ∧ isClient (.showpat 1) ∧
    (State.unconstructed ⟨4, true, .declared⟩).phase = .idle ∧ (State.unconstructed ⟨4, true, .declared⟩).constructed = false :=
  ⟨rfl, rfl, .inl ⟨1, rfl⟩, .inr ⟨1, rfl⟩, rfl, rfl⟩

/-- IllegalPortNeverEmits: a step with PORT = 257, and with PORT = 0. -/
theorem witness_illegal_port : ∀ p ∈ [(0 : Int), 257], (State.present (.setbrt 1) (client p 0 [])).constructed = true ∧
    (State.present (.setbrt 1) (client p 0 [])).phase = .idle ∧ (p < 1 ∨ 256 < p) ∧
    (shows (step (State.present (.setbrt 1) (client p 0 [])))).isSome = true := by decide

/-- OneTransportWritePerClientCommand, OutputsAreNeverReadBack: a step that hands a frame over. -/
theorem witness_step : ∃ s t : State, s.constructed = true ∧ step s = .next t ∧ t.handed ≠ s.handed :=
  ⟨State.present (.showpat 9) (client 1 0 []), _, rfl, rfl, by decide⟩

/-- SeqCountsTheFramesOfARun: two commands and their replies. -/
theorem witness_run : ∃ s : State, Ready s ∧ (∀ c ∈ [(Instr.setbrt 255, (255 : Int)), (.showpat 1, 1)], legalClient c.1 c.2) ∧
    [3, 4].length = [(Instr.setbrt 255, (255 : Int)), (.showpat 1, 1)].length ∧
    s.presented = [(Instr.setbrt 255, (255 : Int)), (.showpat 1, 1)].map Prod.fst ++ [] ∧
    s.replies = [3, 4].map .returned ++ [] := by
  refine ⟨{ client 256 255 [.returned 3, .returned 4] with presented := [.setbrt 255, .showpat 1] },
    ⟨rfl, rfl, by decide, by decide⟩, ?_, rfl, rfl, rfl⟩
  simp [legalClient]

/-- InvariantHoldsAtReset, StepKeepsTheInvariant: legal parameters, and a state that meets the invariant and takes a step. -/
theorem witness_invariant : (Params.mk 1 false .declared).legal = true ∧ ∃ s t : State, s.Inv ∧ step s = .next t ∧ t.handed ≠ s.handed := by
  refine ⟨rfl, State.present (.setbrt 255) (client 1 0 []), _, ?_, rfl, by decide⟩
  constructor <;> simp [client, State.resetWith, State.present, Params.legal, OperandWidths.legal]

/-- StepRunsThePresentedCommand, AConstructedBlockNeverStops: a command, a word of the table, nothing, and CHECKSUM presented. -/
theorem witness_presented : (State.present (.setbrt 1) idle).phase = .idle ∧
    (State.present (.setbrt 1) idle).presented = .setbrt 1 :: [] ∧ (Instr.setbrt 1).presentable = true ∧
    decodeTableWord 144 0x1020000010001ffff000100fe0000aa55 = some (.setbrt 0) ∧ idle.presented = [] ∧
    (State.present (.checksum []) idle).presented = .checksum [] :: [] ∧
    (State.present (.setbrt 1) idle).constructed = true ∧
    (∀ i ∈ (State.present (.setbrt 1) idle).presented, i.presentable = true ∧ ∀ p b, i ≠ .construct p b) := by
  refine ⟨rfl, rfl, rfl, by decide, rfl, rfl, rfl, ?_⟩
  simp [idle, client, State.resetWith, Instr.presentable]

/-- OverlappingCommandsAreRefused: a write that has not returned. -/
theorem witness_overlap : ({ idle with phase := .writing } : State).phase = .writing ∧ (Instr.construct 1 0).presentable = true := by
  decide

/-- DecodeOfEncodeIsTheCommand: commands with a frame at both ends of PORT and of their values. -/
theorem witness_encode : (∃ F, encodeWith 255 256 (.setbrt 255) = some F) ∧ (∃ F, encodeWith 0 1 (.showpat 1) = some F) ∧
    (∃ F, encodeWith 0 1 greatest.toInstr = some F) := ⟨⟨_, rfl⟩, ⟨_, rfl⟩, ⟨_, rfl⟩⟩

/-- EncodeOfDecodeIsTheFrame, DecodeReachesOnlyTheSpecificRows: V2 has a checksum that holds, and decodes. -/
theorem witness_decode : checksumHolds [0x55, 0xAA, 0x00, 0x00, 0xFE, 0x00, 0x01, 0x00, 0xFF, 0xFF, 0x01, 0x00, 0x01, 0x00, 0x00, 0x02,
      0x01, 0x00, 0xFF, 0x56, 0x59] = true ∧
    (∃ i, decode [0x55, 0xAA, 0x00, 0x00, 0xFE, 0x00, 0x01, 0x00, 0xFF, 0xFF, 0x01, 0x00, 0x01, 0x00, 0x00, 0x02, 0x01, 0x00, 0xFF,
      0x56, 0x59] = .ok i ∧ ∀ c, i = .showpat c → 1 ≤ c ∧ c ≤ 9) :=
  ⟨by decide, _, rfl, by simp⟩

/-- PortWidthsChangeNoEffect: an instruction and a step that answer a next state, and ones that are refused. -/
theorem witness_widths : (∃ t, exec (.setbrt 255) idle = .next t) ∧
    (∃ r, exec (.construct 1 0) idle = .refused r) ∧ (∃ t, step (State.present (.setbrt 255) idle) = .next t) ∧
    (∃ r, step (State.present (.checksum []) idle) = .refused r) := ⟨⟨_, rfl⟩, ⟨_, rfl⟩, ⟨_, rfl⟩, ⟨_, rfl⟩⟩

/-- DeclaredWidthsLeaveOnlyPortAndPatternErrors: a legal width and a legal command; the three errors on ports of the declared widths;
and the ends of what the two ports carry. -/
theorem witness_declared : OperandWidths.declared.legal = true ∧ (Instr.showpat 9).wellFormed 4 = true ∧
    idle.params.legal = true ∧
    (Instr.carriedBy .declared (.buildCommandWrite 0 0 0 [] 511 0) = true ∧
      ∃ t, exec (.buildCommandWrite 0 0 0 [] 511 0) idle = .next t ∧ t.delivered = idle.delivered ++ [.validationError .port]) ∧
    (Instr.carriedBy .declared (.showpat 15) = true ∧
      ∃ t, exec (.showpat 15) idle = .next t ∧ t.delivered = idle.delivered ++ [.validationError .patternCode]) ∧
    (Instr.carriedBy .declared (.buildCommandWrite 0 0 0 [0, 0, 0, 0, 0] 1 0) = true ∧
      ∃ t, exec (.buildCommandWrite 0 0 0 [0, 0, 0, 0, 0] 1 0) idle = .next t ∧
        t.delivered = idle.delivered ++ [.validationError .payload]) ∧
    Carries OperandWidths.declared.port 0 ∧ Carries OperandWidths.declared.port 511 ∧
    Carries OperandWidths.declared.patternCode 0 ∧ Carries OperandWidths.declared.patternCode 15 :=
  ⟨by decide, by decide, by decide, ⟨by decide, _, rfl, rfl⟩, ⟨by decide, _, rfl, rfl⟩, ⟨by decide, _, rfl, rfl⟩, by decide,
    by decide, by decide, by decide⟩

/-- PatternFramesOutsideTheCodesAreBuildFrames: V5's frame with the payload byte 10 (C = 0x5858 + 10), and code 10. -/
theorem witness_pattern_frame : checksumHolds [0x55, 0xAA, 0x00, 0x00, 0xFE, 0x00, 0x01, 0x00, 0xFF, 0xFF, 0x01, 0x00, 0x01, 0x01, 0x00,
      0x02, 0x01, 0x00, 0x0A, 0x62, 0x58] = true ∧
    decode [0x55, 0xAA, 0x00, 0x00, 0xFE, 0x00, 0x01, 0x00, 0xFF, 0xFF, 0x01, 0x00, 0x01, 0x01, 0x00, 0x02, 0x01, 0x00, 0x0A, 0x62,
      0x58] = .ok (.showpat 10) ∧ ((10 : Int) < 1 ∨ (9 : Int) < 10) := ⟨by decide, rfl, by decide⟩

end Sys2Proof.Tests
end

section
/-! PROOF. The invariant of the block (Safety.lean): every frame BUILD emits is a frame of the block, every frame a client command
emits is a client frame, each operation on the state keeps the invariant, and so every step does. -/

namespace Sys2Proof.Machine

/-! ### Emitted frames are frames of the block -/

/-- The trailing two bytes of an emitted frame are its checksum (R88). -/
theorem checksumHolds_emitFrame (o : BuildOperands) : checksumHolds (emitFrame o) = true := by
  have hlen : (emitFrame o).length - 2 = 18 + o.payload.length := by rw [length_emitFrame]; omega
  have hdrop : (emitFrame o).drop (18 + o.payload.length) = littleEndian 2 (checksum (bodyOf o)).toNat := by
    rw [emitFrame_eq, List.drop_left' (length_bodyOf o), littleEndian_checksum]
  rw [checksumHolds, hlen, hdrop, take_emitFrame, littleEndianValue_littleEndian, decide_eq_true_eq]
  exact Nat.mod_eq_of_lt (checksum (bodyOf o)).isLt

/-- The row of the opcode table for each choice of BUILD's two mode operands (R57). -/
def shapeRow : Bool → Bool → Row
  | true, true => commandWriteRow
  | true, false => commandReadRow
  | false, true => responseWriteRow
  | false, false => responseReadRow

/-- An emitted frame belongs to the row of its own shape (R57). -/
theorem shapeRow_covers_emitFrame (o : BuildOperands) : (shapeRow o.isCommand o.isWrite).covers (emitFrame o) = true := by
  simp only [Row.covers, List.all_eq_true, List.mem_range, headerLength]
  intro k hk
  rw [byteAt_emitFrame o k hk, emitHeader_eq, lengthHigh_eq]
  cases o.isCommand <;> cases o.isWrite <;> interval_cases k <;>
    simp [byteAt, shapeRow, commandWriteRow, commandReadRow, responseWriteRow, responseReadRow, shapeMask]

/-- Every frame the emission makes is a frame of the block. -/
theorem isFrame_emitFrame (o : BuildOperands) : isFrame (emitFrame o) = true := by
  have hrow := shapeRow_covers_emitFrame o
  cases hc : o.isCommand <;> cases hw : o.isWrite <;> simp only [hc, hw, shapeRow] at hrow <;>
    simp [isFrame, frameOverhead, checksumHolds_emitFrame, hrow]

/-- The header of a client command's frame outside SEQ and PORT: acknowledgement flag, register address and declared length 1
(R92, R93). -/
theorem byteAt_clientFrame (reg v : Int) (s : State) :
    byteAt (emitFrame (clientOperands reg v s)) 2 = 0 ∧
      byteAt (emitFrame (clientOperands reg v s)) 12 = addressByte reg 0 ∧
      byteAt (emitFrame (clientOperands reg v s)) 13 = addressByte reg 1 ∧
      byteAt (emitFrame (clientOperands reg v s)) 14 = addressByte reg 2 ∧
      byteAt (emitFrame (clientOperands reg v s)) 15 = addressByte reg 3 ∧
      byteAt (emitFrame (clientOperands reg v s)) 16 = lengthLow 1 := by
  refine ⟨?_, ?_, ?_, ?_, ?_, ?_⟩ <;> rw [byteAt_emitFrame _ _ (by decide), emitHeader_eq] <;> rfl

/-- A client command's frame belongs to the row of that command (R57). -/
theorem clientRow_covers_clientFrame {r : Row} {reg : Int} (v : Int) (s : State)
    (h : (r = setbrtRow ∧ reg = brightnessRegister) ∨ (r = showpatRow ∧ reg = patternRegister)) :
    r.covers (emitFrame (clientOperands reg v s)) = true := by
  obtain ⟨h2, h12, h13, h14, h15, h16⟩ := byteAt_clientFrame reg v s
  have hshape : commandWriteRow.covers (emitFrame (clientOperands reg v s)) = true :=
    shapeRow_covers_emitFrame (clientOperands reg v s)
  rw [clientRow_covers r (h.imp And.left And.left), hshape, h2, h12, h13, h14, h15, h16]
  rcases h with ⟨rfl, rfl⟩ | ⟨rfl, rfl⟩ <;> decide

/-- The payload byte of a client command's frame is the value it writes (R81). -/
theorem byteAt_payload_clientFrame (reg v : Int) (s : State) :
    byteAt (emitFrame (clientOperands reg v s)) 18 = byteOfInt v := by
  rw [emitFrame_split, emitHeader_eq]
  rfl

/-- The sequence byte of a client command's frame is SEQ (R61, R70). -/
theorem byteAt_sequence_clientFrame (reg v : Int) (s : State) :
    byteAt (emitFrame (clientOperands reg v s)) 3 = s.seq := by
  rw [byteAt_emitFrame _ _ (by decide), emitHeader_eq]
  exact byteOfInt_intOfByte s.seq

/-- The port byte of a client command's frame is PORT - 1 (R61, R74). -/
theorem byteAt_port_clientFrame {reg v : Int} {s : State} (h : (clientOperands reg v s).Fits) :
    ((byteAt (emitFrame (clientOperands reg v s)) 7).toNat : Int) + 1 = s.port := portOf_emitFrame h

/-- The frame of SETBRT of any level, or of SHOWPAT of a code 1 to 9, is one a client command may hand over (R92, R93, R95). -/
theorem isClientFrame_clientFrame {reg v : Int} (s : State)
    (h : reg = brightnessRegister ∨ (reg = patternRegister ∧ Within 1 9 v)) :
    isClientFrame (emitFrame (clientOperands reg v s)) = true := by
  have hlen : (emitFrame (clientOperands reg v s)).length = 21 := length_emitFrame _
  rw [isClientFrame, hlen, checksumHolds_emitFrame]
  rcases h with rfl | ⟨rfl, hv⟩
  · rw [clientRow_covers_clientFrame v s (.inl ⟨rfl, rfl⟩)]
    rfl
  · have hb : ((byteOfInt v).toNat : Int) = v := toNat_byteOfInt (by simp only [Within] at *; omega)
    have hcode : 1 ≤ (byteOfInt v).toNat ∧ (byteOfInt v).toNat ≤ 9 := by simp only [Within] at hv; omega
    simp [clientRow_covers_clientFrame v s (.inr ⟨rfl, rfl⟩), byteAt_payload_clientFrame, hcode]

/-! ### Every operation on the state keeps the invariant -/

namespace State.Inv

variable {s : State}

/-- Taking a command touches nothing the invariant speaks of. -/
theorem takeCommand (hs : s.Inv) (rest : List Instr) : (s.takeCommand rest).Inv :=
  ⟨hs.params_legal, hs.handed_client, hs.delivered_proper, hs.seq_fixed, hs.nothing_before_construct, hs.writing_handed⟩

/-- A proper outcome may be delivered. -/
theorem deliver (hs : s.Inv) {o : CommandOutcome} (ho : CommandOutcome.proper o = true) : (Machine.deliver o s).Inv where
  params_legal := hs.params_legal
  handed_client := hs.handed_client
  delivered_proper := by
    simp only [deliver_delivered, List.mem_append, List.mem_singleton]
    rintro o' (h | rfl)
    · exact hs.delivered_proper o' h
    · exact ho
  seq_fixed := hs.seq_fixed
  nothing_before_construct := hs.nothing_before_construct
  writing_handed := hs.writing_handed

/-- SeqUpdate moves SEQ only when SEQ_INC is true (R94). -/
theorem seqUpdate (hs : s.Inv) : (Machine.seqUpdate s).Inv where
  params_legal := hs.params_legal
  handed_client := hs.handed_client
  delivered_proper := hs.delivered_proper
  seq_fixed hinc := by
    have hinc' : s.params.seqInc = false := hinc
    simpa [hinc'] using hs.seq_fixed hinc'
  nothing_before_construct := hs.nothing_before_construct
  writing_handed := hs.writing_handed

/-- The end of a write leaves the block idle. -/
theorem endWrite (hs : s.Inv) (rest : List TransportReply) : (Machine.endWrite rest s).Inv where
  params_legal := hs.params_legal
  handed_client := hs.handed_client
  delivered_proper := hs.delivered_proper
  seq_fixed := hs.seq_fixed
  nothing_before_construct hc := ⟨(hs.nothing_before_construct hc).1, rfl⟩
  writing_handed h := by simp at h

/-- Whatever the transport returns. -/
theorem transportReturn (hs : s.Inv) : (Machine.transportReturn s).Inv := by
  rcases transportReturn_cases s with ⟨-, hr⟩ | ⟨n, rest, -, hr⟩ | ⟨e, rest, -, hr⟩ <;> rw [hr]
  · exact hs
  · exact (hs.endWrite rest).seqUpdate.deliver rfl
  · exact (hs.endWrite rest).deliver rfl

/-- CONSTRUCT clears SEQ and binds a transport to which nothing has been handed over yet (R91, R96). -/
theorem bindClient (hs : s.Inv) (hc : s.constructed = false) (p : Int) (b : Nat) : (Machine.bindClient p b s).Inv := by
  obtain ⟨hnone, hidle⟩ := hs.nothing_before_construct hc
  constructor
  case params_legal => exact hs.params_legal
  case handed_client => simp [hnone]
  case delivered_proper => exact hs.delivered_proper
  case seq_fixed => simp [hnone]
  case nothing_before_construct => simp
  case writing_handed => simp [hidle]

/-- A constructed client may hand over a client frame that carries its PORT and SEQ. -/
theorem transportWrite (hs : s.Inv) (hc : s.constructed = true) {F : List Byte} (hF : isClientFrame F = true)
    (hport : ((byteAt F 7).toNat : Int) + 1 = s.port) (hseq : byteAt F 3 = s.seq) : (Machine.transportWrite F s).Inv where
  params_legal := hs.params_legal
  handed_client := by
    simp only [transportWrite_handed, List.mem_append, List.mem_singleton]
    rintro h (h' | rfl)
    · exact hs.handed_client h h'
    · exact ⟨hF, rfl, hport⟩
  delivered_proper := hs.delivered_proper
  seq_fixed hinc := by
    obtain ⟨h0, hall⟩ := hs.seq_fixed hinc
    refine ⟨h0, ?_⟩
    simp only [transportWrite_handed, List.mem_append, List.mem_singleton]
    rintro h (h' | rfl)
    · exact hall h h'
    · exact hseq.trans h0
  nothing_before_construct h := by simp [hc] at h
  writing_handed _ := by simp

/-- The write of a client command whose BUILD is accepted. -/
theorem clientWrite (hs : s.Inv) (hc : s.constructed = true) {reg v : Int}
    (hreg : reg = brightnessRegister ∨ (reg = patternRegister ∧ Within 1 9 v))
    (ha : (clientOperands reg v s).Accepted s.params.pmax) :
    (Machine.transportWrite (emitFrame (clientOperands reg v s)) s).Inv :=
  hs.transportWrite hc (isClientFrame_clientFrame s hreg) (byteAt_port_clientFrame ha.1) (byteAt_sequence_clientFrame reg v s)

/-- Every instruction a host can present keeps the invariant. -/
theorem exec (hs : s.Inv) {i : Instr} {t : State} (hi : i.presentable = true) (h : Machine.exec i s = .next t) : t.Inv := by
  rcases exec_cases h with ⟨o, ⟨op, -, rfl⟩, -, -, rfl⟩ | ⟨field, -, -, rfl⟩ | ⟨frame, rfl, -⟩ | ⟨p, b, -, -, hc, rfl⟩ |
    ⟨reg, v, hreg, -, hc, ha, rfl⟩
  · exact hs.deliver (isFrame_emitFrame op)
  · exact hs.deliver rfl
  · cases hi
  · exact (hs.bindClient hc p b).deliver rfl
  · exact (hs.clientWrite hc (hreg.imp (·.2.1) (·.2)) ha).transportReturn

end State.Inv

/-! ### The statements -/

/-- Settles O38: a step is the transport's return, nothing, or a presented command, and each keeps the invariant. -/
theorem stepKeepsTheInvariant : Obligations.StepKeepsTheInvariant := by
  intro s t hs h
  rcases step_cases h with ⟨-, rfl⟩ | ⟨-, -, rfl⟩ | ⟨i, rest, -, -, hi, he⟩
  · exact hs.transportReturn
  · exact hs
  · exact (hs.takeCommand rest).exec hi he

/-- The parameters of `State.reset` are legal (R7), whatever the OPEN constants are. -/
theorem openParams_legal : Config.openParams.legal = true :=
  (Params.legal_iff _).2 ⟨Nat.le_add_left 1 Config.pmaxBeyondOne, OperandWidths.legal_declared_plus Config.opwBeyondDeclared⟩

/-- What construction leaves meets the invariant: SEQ is 0 and nothing has been handed over or delivered. -/
theorem State.inv_resetWith {q : Params} (hq : q.legal = true) (p : Int) (b : Nat) : (State.resetWith q p b).Inv := by
  constructor <;> simp [State.resetWith, hq]

/-- So does the block before construction. -/
theorem State.inv_unconstructed {q : Params} (hq : q.legal = true) : (State.unconstructed q).Inv := by
  constructor <;> simp [State.unconstructed, hq]

/-- Settles O37: with legal parameters, which `State.reset` has. -/
theorem invariantHoldsAtReset : Obligations.InvariantHoldsAtReset :=
  ⟨fun _ p b hq => State.inv_resetWith hq p b, fun _ hq => State.inv_unconstructed hq,
    State.inv_resetWith openParams_legal Config.portInit Config.transportInit⟩

end Sys2Proof.Machine
end

section
/-! PROOF. Maps of the state that no command and no step can tell from the identity: a map that leaves alone what the rules read
and commutes with the operations that write commutes with every instruction and every step.  Two such maps are other port widths
(R7, R53) and outputs already made (R3, R18). -/

namespace Sys2Proof.Machine

/-! ### Maps that no rule notices -/

/-- Apply a map to the next state of a result. -/
def mapNext (f : State → State) : Result → Result
  | .next t => .next (f t)
  | .fault r => .fault r
  | .refused r => .refused r

@[simp] theorem mapNext_next (f : State → State) (t : State) : mapNext f (.next t) = .next (f t) := rfl
@[simp] theorem mapNext_refused (f : State → State) (r : Refusal) : mapNext f (.refused r) = .refused r := rfl

theorem mapNext_eq_next {f : State → State} {r : Result} {t : State} :
    mapNext f r = .next t ↔ ∃ u, r = .next u ∧ t = f u := by
  cases r <;> simp [mapNext, eq_comm]

/-- A map of the state that keeps everything the rules read and commutes with each operation that writes. -/
structure Unnoticed (f : State → State) : Prop where
  pmax (s : State) : (f s).params.pmax = s.params.pmax
  constructed (s : State) : (f s).constructed = s.constructed
  seq (s : State) : (f s).seq = s.seq
  port (s : State) : (f s).port = s.port
  phase (s : State) : (f s).phase = s.phase
  presented (s : State) : (f s).presented = s.presented
  replies (s : State) : (f s).replies = s.replies
  deliver (o : CommandOutcome) (s : State) : deliver o (f s) = f (deliver o s)
  seqUpdate (s : State) : seqUpdate (f s) = f (seqUpdate s)
  bindClient (p : Int) (b : Nat) (s : State) : bindClient p b (f s) = f (bindClient p b s)
  transportWrite (F : List Byte) (s : State) : transportWrite F (f s) = f (transportWrite F s)
  endWrite (rest : List TransportReply) (s : State) : endWrite rest (f s) = f (endWrite rest s)
  takeCommand (rest : List Instr) (s : State) : (f s).takeCommand rest = f (s.takeCommand rest)

namespace Unnoticed

variable {f : State → State}

theorem raiseValidation (hf : Unnoticed f) (field : Field) (s : State) :
    Machine.raiseValidation field (f s) = f (Machine.raiseValidation field s) := hf.deliver _ s

theorem clientOperands (hf : Unnoticed f) (reg v : Int) (s : State) :
    Machine.clientOperands reg v (f s) = Machine.clientOperands reg v s := by
  rw [Machine.clientOperands, hf.seq, hf.port, Machine.clientOperands]

theorem transportReturn (hf : Unnoticed f) (s : State) :
    Machine.transportReturn (f s) = f (Machine.transportReturn s) := by
  unfold Machine.transportReturn raiseTransport
  rw [hf.replies]
  rcases s.replies with _ | ⟨_ | _, rest⟩
  · rfl
  · simp only [hf.endWrite, hf.seqUpdate, hf.deliver]
  · simp only [hf.endWrite, hf.deliver]

theorem whenIdle (hf : Unnoticed f) (s : State) (r : Result) :
    Machine.whenIdle (f s) (mapNext f r) = mapNext f (Machine.whenIdle s r) := by
  unfold Machine.whenIdle
  rw [hf.phase]
  cases s.phase <;> rfl

theorem whenConstructed (hf : Unnoticed f) (s : State) (r : Result) :
    Machine.whenConstructed (f s) (mapNext f r) = mapNext f (Machine.whenConstructed s r) := by
  unfold Machine.whenConstructed
  rw [hf.constructed]
  cases s.constructed <;> rfl

theorem runBuild (hf : Unnoticed f) (o : BuildOperands) (s : State) :
    Machine.runBuild o (f s) = mapNext f (Machine.runBuild o s) := by
  unfold Machine.runBuild
  rw [← hf.whenIdle, hf.pmax]
  cases buildFrame s.params.pmax o with
  | error field => simp only [mapNext_next, hf.raiseValidation]
  | ok F => simp only [mapNext_next, hf.deliver]

theorem runClient (hf : Unnoticed f) (own : RangeCheck) (reg v : Int) (s : State) :
    Machine.runClient own reg v (f s) = mapNext f (Machine.runClient own reg v s) := by
  unfold Machine.runClient
  rw [← hf.whenIdle, ← hf.whenConstructed, hf.pmax, hf.clientOperands]
  cases firstFailing [own] with
  | some field => simp only [mapNext_next, hf.raiseValidation]
  | none =>
    cases buildFrame s.params.pmax (Machine.clientOperands reg v s) with
    | error field => simp only [mapNext_next, hf.raiseValidation]
    | ok F => simp only [mapNext_next, hf.transportWrite, hf.transportReturn]

theorem execConstruct (hf : Unnoticed f) (p : Int) (b : Nat) (s : State) :
    Machine.execConstruct p b (f s) = mapNext f (Machine.execConstruct p b s) := by
  unfold Machine.execConstruct
  rw [← hf.whenIdle, hf.constructed]
  cases s.constructed with
  | true => rfl
  | false => simp only [mapNext_next, hf.bindClient, hf.deliver]

/-- No instruction notices the map. -/
theorem exec (hf : Unnoticed f) (i : Instr) (s : State) : Machine.exec i (f s) = mapNext f (Machine.exec i s) := by
  cases i with
  | setbrt v => exact hf.runClient _ _ _ s
  | showpat v => exact hf.runClient _ _ _ s
  | construct p b => exact hf.execConstruct p b s
  | checksum F => exact congrArg Host.Outcome.next (hf.deliver _ s)
  | _ => exact hf.runBuild _ s

/-- No step notices the map. -/
theorem step (hf : Unnoticed f) (s : State) : Machine.step (f s) = mapNext f (Machine.step s) := by
  unfold Machine.step
  rw [hf.phase]
  cases s.phase with
  | writing => exact congrArg Host.Outcome.next (hf.transportReturn s)
  | idle =>
    simp only [hf.presented]
    cases s.presented with
    | nil => rfl
    | cons i rest =>
      cases hi : i.presentable with
      | true => simp only [hi, if_true, hf.takeCommand, hf.exec]
      | false => simp [hi]

end Unnoticed

/-! ### Other port widths -/

/-- Nothing reads the port widths, and nothing writes them (R7, U14). -/
theorem unnoticed_withWidths (w : OperandWidths) : Unnoticed (Claims.withWidths w) := by
  constructor <;> intros <;> rfl

/-- Settles O49: the result with other widths is the same result, up to the widths. -/
theorem portWidthsChangeNoEffect : Obligations.PortWidthsChangeNoEffect := by
  intro w s
  have hexec (i : Instr) := (unnoticed_withWidths w).exec i s
  have hstep := (unnoticed_withWidths w).step s
  refine ⟨fun i => ⟨fun t h => ?_, fun r h => ?_⟩, fun t h => ?_, fun r h => ?_⟩
  · rw [hexec, h, mapNext_next]
  · rw [hexec, h, mapNext_refused]
  · rw [hstep, h, mapNext_next]
  · rw [hstep, h, mapNext_refused]

/-! ### Outputs already made -/

/-- The state with frames handed over and outcomes delivered before those it records. -/
def State.withEarlier (h : List Handed) (d : List CommandOutcome) (s : State) : State :=
  { s with handed := h ++ s.handed, delivered := d ++ s.delivered }

/-- Nothing reads the outputs, and what is written to them is added at the end (R3, R18). -/
theorem unnoticed_withEarlier (h : List Handed) (d : List CommandOutcome) : Unnoticed (State.withEarlier h d) := by
  constructor
  case deliver => intros; simp [deliver, State.withEarlier]
  case transportWrite => intros; simp [transportWrite, State.withEarlier]
  all_goals intros; rfl

/-- The state with no output made yet. -/
def State.withoutOutputs (s : State) : State := { s with handed := [], delivered := [] }

/-- A step from any outputs is the step from none, with those outputs put before what it adds. -/
theorem step_withOutputs (s : State) (h : List Handed) (d : List CommandOutcome) :
    step { s with handed := h, delivered := d } = mapNext (State.withEarlier h d) (step s.withoutOutputs) := by
  rw [← (unnoticed_withEarlier h d).step]
  simp [State.withEarlier, State.withoutOutputs]

/-- Settles O34: what a step adds to the outputs is what it adds to none. -/
theorem outputsAreNeverReadBack : Obligations.OutputsAreNeverReadBack := by
  intro s t hstep
  obtain ⟨u, hu, rfl⟩ := mapNext_eq_next.1 ((step_withOutputs s s.handed s.delivered).symm.trans hstep)
  exact ⟨u.handed, u.delivered, rfl, rfl, fun h d => by rw [step_withOutputs, hu]; rfl⟩

end Sys2Proof.Machine
end

section
/-! PROOF. Operand ports (R53): legal ports carry every legal command, and on ports of the declared widths the only range checks
of R100 that can still fail are those of `port`, of `pattern_code` and of the payload's length. -/

namespace Sys2Proof

/-- What a port carries, as a closed range. -/
theorem Carries.within {width : Nat} {v : Int} (h : Carries width v) : Within 0 (2 ^ width - 1) v :=
  ⟨h.1, Int.le_sub_one_of_lt h.2⟩

end Sys2Proof

namespace Sys2Proof.Machine

/-! ### Legal ports carry legal commands -/

/-- Legal ports carry the accepted operands of a BUILD. -/
theorem carriedBy_of_accepted {w : OperandWidths} {pmax : Nat} {o : BuildOperands} (hw : w.legal = true)
    (h : o.Accepted pmax) : o.CarriedBy w := by
  obtain ⟨wseq, wreg, wlen, wpay, wport, -, -, wack, -⟩ := w.legal_iff.1 hw
  obtain ⟨⟨hseq, hport, hreg, hlen, hpay, hack⟩, -⟩ := h
  exact ⟨.of_within hseq (by decide) (by decide) wseq, .of_within hreg (by decide) (by decide) wreg,
    .of_within hlen (by decide) (by decide) wlen, fun b hb => .of_within (hpay b hb) (by decide) (by decide) wpay,
    .of_within hport (by decide) (by decide) wport, .of_within hack (by decide) (by decide) wack⟩

/-- Legal ports carry every legal command (R7, R53). -/
theorem carriedBy_of_wellFormed {i : Instr} {pmax : Nat} {w : OperandWidths} (hw : w.legal = true)
    (h : i.wellFormed pmax = true) : i.carriedBy w = true := by
  obtain ⟨-, -, -, -, -, -, -, -, wlevel, wcode, winit⟩ := w.legal_iff.1 hw
  cases i with
  | setbrt v => exact decide_eq_true (.of_within (of_decide_eq_true h) (by decide) (by decide) wlevel)
  | showpat v => exact decide_eq_true (.of_within (of_decide_eq_true h) (by decide) (by decide) wcode)
  | construct p b => exact decide_eq_true (.of_within (of_decide_eq_true h) (by decide) (by decide) winit)
  | checksum F => rfl
  | _ => exact decide_eq_true (carriedBy_of_accepted hw (of_decide_eq_true h))

/-! ### Which checks can fail -/

/-- The first failing check is one of the checks, and it fails. -/
theorem mem_of_firstFailing {cs : List RangeCheck} {f : Field} (h : firstFailing cs = some f) : (f, true) ∈ cs := by
  induction cs with
  | nil => simp [firstFailing] at h
  | cons c cs ih =>
    obtain ⟨g, bad⟩ := c
    cases bad with
    | true => simp_all [firstFailing]
    | false => exact List.mem_cons_of_mem _ (ih h)

/-- Where every operand but PORT holds its field, BUILD can raise only the port's error, or the payload's by its length. -/
theorem validateBuild_of_fields {pmax : Nat} {o : BuildOperands} {f : Field} (hseq : Within 0 255 o.sequence)
    (hreg : Within 0 0xFFFFFFFF o.registerAddress) (hlen : Within 0 65535 o.payloadLength)
    (hpay : ∀ b ∈ o.payload, Within 0 255 b) (hack : Within 0 255 o.ack) (h : validateBuild pmax o = some f) :
    f = .port ∨ (f = .payload ∧ pmax < o.payload.length) := by
  have hbytes : o.payload.any (outside 0 255) = false := by
    simpa [outside_eq_false] using hpay
  have hmem : (f = .port ∧ outside 1 256 o.port = true) ∨ (f = .payload ∧ pmax < o.payload.length) := by
    simpa [buildChecks, outside_eq_false.2 hseq, outside_eq_false.2 hreg, outside_eq_false.2 hlen, outside_eq_false.2 hack,
      hbytes] using mem_of_firstFailing h
  exact hmem.imp_left And.left

/-- Ports of the declared widths leave BUILD the port's error, and the payload's by its length (R53). -/
theorem validateBuild_of_carriedBy {pmax : Nat} {o : BuildOperands} {f : Field}
    (hc : o.CarriedBy OperandWidths.declared) (h : validateBuild pmax o = some f) :
    f = .port ∨ (f = .payload ∧ pmax < o.payload.length) := by
  obtain ⟨hseq, hreg, hlen, hpay, -, hack⟩ := hc
  exact validateBuild_of_fields hseq.within hreg.within hlen.within (fun b hb => (hpay b hb).within) hack.within h

/-- The BUILD of a client command whose value is a byte can raise only the port's error (R100). -/
theorem validateBuild_clientOperands {reg v : Int} {s : State} {f : Field} (hr : Within 0 0xFFFFFFFF reg)
    (hv : Within 0 255 v) (hm : 1 ≤ s.params.pmax)
    (h : validateBuild s.params.pmax (clientOperands reg v s) = some f) : f = .port := by
  rcases validateBuild_of_fields (within_intOfByte s.seq) hr (by decide : Within 0 65535 1)
    (by simpa [clientOperands] using hv) (by decide : Within 0 255 0) h with hf | ⟨-, hlong⟩
  · exact hf
  · exact absurd hlong (Nat.not_lt.2 hm)

/-! ### Which errors a command delivers -/

/-- A BUILD that delivers a validation error names its first failing check. -/
theorem validateBuild_of_raises {o : BuildOperands} {s t : State} {f : Field} (h : runBuild o s = .next t)
    (hd : t.delivered = s.delivered ++ [.validationError f]) : validateBuild s.params.pmax o = some f := by
  obtain ⟨-, ⟨-, rfl⟩ | ⟨field, hv, rfl⟩⟩ := runBuild_eq_next.1 h
  · simp at hd
  · obtain rfl : field = f := by simpa using hd
    exact hv

/-- After a `TransportWrite` no validation error is delivered. -/
theorem transportReturn_no_validationError (s : State) (f : Field) :
    (transportReturn s).delivered ≠ s.delivered ++ [.validationError f] := by
  rcases transportReturn_cases s with ⟨-, hr⟩ | ⟨n, rest, -, hr⟩ | ⟨e, rest, -, hr⟩ <;> simp [hr]

/-- A client command that delivers a validation error names its own check if that fails, and a check of its BUILD if not. -/
theorem runClient_raises {own : RangeCheck} {reg v : Int} {s t : State} {f : Field} (h : runClient own reg v s = .next t)
    (hd : t.delivered = s.delivered ++ [.validationError f]) :
    (own.2 = true ∧ f = own.1) ∨
      (own.2 = false ∧ validateBuild s.params.pmax (clientOperands reg v s) = some f) := by
  obtain ⟨-, -, ⟨hbad, rfl⟩ | ⟨hok, ⟨field, hv, rfl⟩ | ⟨-, rfl⟩⟩⟩ := runClient_eq_next.1 h
  · exact .inl ⟨hbad, by simpa using hd.symm⟩
  · obtain rfl : field = f := by simpa using hd
    exact .inr ⟨hok, hv⟩
  · exact absurd hd (transportReturn_no_validationError _ f)

/-- On ports of the declared widths SETBRT can end with the port's error alone. -/
theorem setbrt_raises {v : Int} {s t : State} {f : Field} (hm : 1 ≤ s.params.pmax)
    (hc : Carries OperandWidths.declared.level v) (h : execSetbrt v s = .next t)
    (hd : t.delivered = s.delivered ++ [.validationError f]) : f = .port := by
  have hv : Within 0 255 v := hc.within
  rcases runClient_raises h hd with ⟨hbad, -⟩ | ⟨-, hbuild⟩
  · exact absurd hv (outside_eq_true.1 hbad)
  · exact validateBuild_clientOperands (by decide) hv hm hbuild

/-- SHOWPAT can end with the pattern code's error or the port's. -/
theorem showpat_raises {v : Int} {s t : State} {f : Field} (hm : 1 ≤ s.params.pmax) (h : execShowpat v s = .next t)
    (hd : t.delivered = s.delivered ++ [.validationError f]) : f = .port ∨ f = .patternCode := by
  rcases runClient_raises h hd with ⟨-, rfl⟩ | ⟨hok, hbuild⟩
  · exact .inr rfl
  · have hv : Within 1 9 v := outside_eq_false.1 hok
    exact .inl (validateBuild_clientOperands (by decide) (by simp only [Within] at *; omega) hm hbuild)

/-- The errors that ports of the declared widths leave to an instruction. -/
theorem exec_raises_of_carriedBy_declared {i : Instr} {s t : State} {f : Field} (hm : 1 ≤ s.params.pmax)
    (hc : i.carriedBy OperandWidths.declared = true) (h : exec i s = .next t)
    (hd : t.delivered = s.delivered ++ [.validationError f]) :
    f = .port ∨ f = .patternCode ∨
      (f = .payload ∧ ∃ o : BuildOperands, (i = o.toInstr ∨ i = Claims.shape o) ∧ s.params.pmax < o.payload.length) := by
  cases i with
  | setbrt v => exact .inl (setbrt_raises hm (of_decide_eq_true hc) h hd)
  | showpat v => exact (showpat_raises hm h hd).imp_right .inl
  | construct p b =>
    obtain ⟨-, -, rfl⟩ := execConstruct_eq_next.1 h
    simp at hd
  | checksum F =>
    obtain rfl : deliver (.checksum (checksum F)) s = t := Host.Outcome.next.inj h
    simp at hd
  | build =>
    exact (validateBuild_of_carriedBy (of_decide_eq_true hc) (validateBuild_of_raises h hd)).imp_right
      fun ⟨hf, hlong⟩ => .inr ⟨hf, _, .inl rfl, hlong⟩
  | _ =>
    exact (validateBuild_of_carriedBy (of_decide_eq_true hc) (validateBuild_of_raises h hd)).imp_right
      fun ⟨hf, hlong⟩ => .inr ⟨hf, _, .inr rfl, hlong⟩

/-- Settles O50, clause by clause. -/
theorem declaredWidthsLeaveOnlyPortAndPatternErrors : Obligations.DeclaredWidthsLeaveOnlyPortAndPatternErrors := by
  refine ⟨fun i pmax w hw h => carriedBy_of_wellFormed hw h,
    fun i s t f hp hc h hd => exec_raises_of_carriedBy_declared ((Params.legal_iff _).1 hp).1 hc h hd, ?_, ?_⟩
  · intro v hv
    obtain ⟨h0, h1⟩ : 0 ≤ v ∧ v < 2 ^ 9 := hv
    omega
  · intro v hv
    obtain ⟨h0, h1⟩ : 0 ≤ v ∧ v < 2 ^ 4 := hv
    omega

end Sys2Proof.Machine
end

section
/-! PROOF. The registers CONSTRUCT writes and what a step runs: once constructed, PORT, the binding and the parameters are fixed; a
client with an illegal PORT hands nothing over; reset is construction; and a step runs the command the host presents. -/

namespace Sys2Proof.Machine

/-! ### What the transport's return leaves alone -/

/-- The transport's return writes SEQ, the phase, the replies and the outcomes, and nothing else (R102, R104). -/
@[simp] theorem transportReturn_frame (s : State) :
    (transportReturn s).params = s.params ∧ (transportReturn s).constructed = s.constructed ∧
      (transportReturn s).port = s.port ∧ (transportReturn s).transport = s.transport ∧
      (transportReturn s).presented = s.presented ∧ (transportReturn s).handed = s.handed := by
  rcases transportReturn_cases s with ⟨-, hr⟩ | ⟨n, rest, -, hr⟩ | ⟨e, rest, -, hr⟩ <;> simp [hr]

/-! ### PORT and the binding -/

/-- No instruction writes PORT, the binding or the parameters of a constructed block: CONSTRUCT alone does, and only once (R116). -/
theorem exec_keeps_binding {i : Instr} {s t : State} (hc : s.constructed = true) (h : exec i s = .next t) :
    t.port = s.port ∧ t.transport = s.transport ∧ t.constructed = true ∧ t.params = s.params := by
  rcases exec_cases h with ⟨o, -, -, -, rfl⟩ | ⟨field, -, -, rfl⟩ | ⟨frame, -, rfl⟩ | ⟨p, b, -, -, hnot, -⟩ |
    ⟨reg, v, -, -, -, -, rfl⟩
  · exact ⟨rfl, rfl, hc, rfl⟩
  · exact ⟨rfl, rfl, hc, rfl⟩
  · exact ⟨rfl, rfl, hc, rfl⟩
  · simp [hc] at hnot
  · simp [hc]

/-- Settles O29: the transport's return writes none of them either. -/
theorem portAndBindingAreFixedAtConstruction : Obligations.PortAndBindingAreFixedAtConstruction := by
  refine ⟨fun i s t hc h => exec_keeps_binding hc h, fun s t hc h => ?_⟩
  rcases step_cases h with ⟨-, rfl⟩ | ⟨-, -, rfl⟩ | ⟨i, rest, -, -, -, he⟩
  · simp [hc]
  · exact ⟨rfl, rfl, hc, rfl⟩
  · exact exec_keeps_binding (s := s.takeCommand rest) hc he

/-- The BUILD of a client command is accepted only with a legal PORT (R61, R100). -/
theorem port_within_of_accepted {reg v : Int} {s : State} (h : (clientOperands reg v s).Accepted s.params.pmax) :
    Within 1 256 s.port := by
  obtain ⟨⟨-, hport, -⟩, -⟩ := h
  exact hport

/-- With an illegal PORT all that an instruction can do on a constructed block is deliver an outcome (R16). -/
theorem exec_delivers_of_illegal_port {i : Instr} {s t : State} (hc : s.constructed = true) (hp : ¬ Within 1 256 s.port)
    (h : exec i s = .next t) : ∃ o, t = deliver o s := by
  rcases exec_cases h with ⟨o, -, -, -, ht⟩ | ⟨field, -, -, ht⟩ | ⟨frame, -, ht⟩ | ⟨p, b, -, -, hnot, -⟩ |
    ⟨reg, v, -, -, -, ha, -⟩
  · exact ⟨o, ht⟩
  · exact ⟨.validationError field, ht⟩
  · exact ⟨_, ht⟩
  · simp [hc] at hnot
  · exact absurd (port_within_of_accepted ha) hp

/-- Settles O32: an idle step takes a command and at most delivers an outcome. -/
theorem illegalPortNeverEmits : Obligations.IllegalPortNeverEmits := by
  intro s t hc hidle hp h
  have hport : ¬ Within 1 256 s.port := by simp only [Within]; omega
  rcases step_cases h with ⟨hw, -⟩ | ⟨-, -, rfl⟩ | ⟨i, rest, -, -, -, he⟩
  · simp [hidle] at hw
  · exact ⟨rfl, rfl, rfl, hc, hidle⟩
  · obtain ⟨o, rfl⟩ := exec_delivers_of_illegal_port (s := s.takeCommand rest) hc hport he
    exact ⟨rfl, rfl, rfl, hc, hidle⟩

/-! ### Reset -/

/-- Settles O36: the fields are those of `State.resetWith`, and CONSTRUCT writes them on a block before construction. -/
theorem resetIsConstruction : Obligations.ResetIsConstruction :=
  ⟨rfl, rfl, rfl, rfl, rfl, rfl, fun _ _ _ => execConstruct_eq_next.2 ⟨rfl, rfl, rfl⟩⟩

/-! ### The presented command -/

/-- An idle block takes the command presented next and runs it (R106). -/
theorem step_of_presented {i : Instr} {rest : List Instr} {s : State} (hidle : s.phase = .idle)
    (hq : s.presented = i :: rest) (hi : i.presentable = true) : step s = exec i (s.takeCommand rest) := by
  simp [step, hidle, hq, hi]

/-- With no command presented nothing happens (R106). -/
theorem step_of_none_presented {s : State} (hidle : s.phase = .idle) (hq : s.presented = []) : step s = .next s := by
  simp [step, hidle, hq]

/-- What a host cannot present does not run (R83). -/
theorem step_of_not_presentable {i : Instr} {rest : List Instr} {s : State} (hidle : s.phase = .idle)
    (hq : s.presented = i :: rest) (hi : i.presentable = false) : step s = .refused .notPresentable := by
  simp [step, hidle, hq, hi]

/-- A presented command is the one the next step runs, ahead of those still waiting. -/
theorem step_present {i : Instr} (hi : i.presentable = true) (s : State) :
    step (s.present i) = exec i { s with phase := .idle } :=
  step_of_presented rfl rfl hi

/-- A frame is read as a client command or as one of the four shapes of BUILD, each of which a host can present (R50, R57). -/
theorem presentable_of_decode {F : List Byte} {i : Instr} (h : decode F = .ok i) : i.presentable = true := by
  unfold decode at h
  split_ifs at h <;> cases h <;> rfl

/-- A word of the opcode table is read as its frame is. -/
theorem decodeTableWord_eq_some {nbits w : Nat} {i : Instr} :
    decodeTableWord nbits w = some i ↔ decode (tableFrame nbits w) = .ok i := by
  unfold decodeTableWord
  cases decode (tableFrame nbits w) <;> simp [Except.toOption]

/-- The command of a word that decodes is the one the next step runs. -/
theorem step_withFetchWord {nbits w : Nat} {i : Instr} (h : decodeTableWord nbits w = some i) (s : State) :
    step (s.withFetchWord nbits w) = exec i { s with phase := .idle } := by
  have hw : s.withFetchWord nbits w = s.present i := by simp [State.withFetchWord, h]
  rw [hw, step_present (presentable_of_decode (decodeTableWord_eq_some.1 h))]

/-- Settles O39, clause by clause. -/
theorem stepRunsThePresentedCommand : Obligations.StepRunsThePresentedCommand :=
  ⟨fun _ _ _ hidle hq hi => step_of_presented hidle hq hi, fun _ _ _ s h => step_withFetchWord h s,
    fun _ hidle hq => step_of_none_presented hidle hq, fun _ _ _ hidle hq => step_of_not_presentable hidle hq rfl⟩

end Sys2Proof.Machine
end

section
/-! PROOF. Writes and runs: over a step of a constructed block the frames handed over and the writes begun or ended grow together
(R41, R95), and a run of legal client commands that the transport answers hands their frames over in order, SEQ counting them
modulo 256 (R94). -/

namespace Sys2Proof.Machine

open Sys2Proof.Claims

/-! ### What each operation adds to the writes seen -/

/-- An outcome that ends no write adds none. -/
theorem writesSeen_deliver {o : CommandOutcome} (ho : endsWrite o = false) (s : State) :
    writesSeen (deliver o s) = writesSeen s := by
  simp [writesSeen, List.filter_append, ho]

/-- A `TransportWrite` of an idle block begins one. -/
theorem writesSeen_transportWrite {s : State} (hidle : s.phase = .idle) (F : List Byte) :
    writesSeen (transportWrite F s) = writesSeen s + 1 := by
  simp [writesSeen, hidle]

/-- The transport's return ends the write it belongs to, which was seen as begun. -/
theorem writesSeen_transportReturn {s : State} (hw : s.phase = .writing) :
    writesSeen (transportReturn s) = writesSeen s := by
  rcases transportReturn_cases s with ⟨-, hr⟩ | ⟨n, rest, -, hr⟩ | ⟨e, rest, -, hr⟩ <;>
    simp [hr, writesSeen, hw, List.filter_cons, endsWrite]

/-- The transport's return delivers at most one outcome. -/
theorem transportReturn_delivered (s : State) :
    (transportReturn s).delivered = s.delivered ∨ ∃ o, (transportReturn s).delivered = s.delivered ++ [o] := by
  rcases transportReturn_cases s with ⟨-, hr⟩ | ⟨n, rest, -, hr⟩ | ⟨e, rest, -, hr⟩ <;> simp [hr]

/-! ### One write per client command -/

/-- From `s` to `t` the frames handed over and the writes seen grow together, and frames and outcomes by at most one each. -/
def AtMostOneWrite (s t : State) : Prop :=
  t.handed.length + writesSeen s = s.handed.length + writesSeen t ∧
    (t.handed = s.handed ∨ ∃ F : List Byte, F.length = 21 ∧ t.handed = s.handed ++ [⟨s.transport, F⟩]) ∧
    (t.delivered = s.delivered ∨ ∃ o, t.delivered = s.delivered ++ [o])

namespace AtMostOneWrite

/-- An outcome that ends no write. -/
theorem deliver {o : CommandOutcome} (ho : endsWrite o = false) (s : State) : AtMostOneWrite s (Machine.deliver o s) :=
  ⟨by rw [writesSeen_deliver ho]; rfl, .inl rfl, .inr ⟨o, rfl⟩⟩

/-- The return of a write in progress. -/
theorem transportReturn {s : State} (hw : s.phase = .writing) : AtMostOneWrite s (Machine.transportReturn s) :=
  ⟨by simp [writesSeen_transportReturn hw], by simp, transportReturn_delivered s⟩

/-- A client command's write with its return. -/
theorem clientWrite {s : State} (hidle : s.phase = .idle) (reg v : Int) :
    AtMostOneWrite s (Machine.transportReturn (transportWrite (emitFrame (clientOperands reg v s)) s)) := by
  refine ⟨?_, .inr ⟨emitFrame (clientOperands reg v s), length_emitFrame _, by simp⟩, transportReturn_delivered _⟩
  rw [writesSeen_transportReturn rfl, writesSeen_transportWrite hidle]
  simp only [transportReturn_frame, transportWrite_handed, List.length_append, List.length_singleton]
  omega

/-- Every instruction on a constructed block. -/
theorem exec {i : Instr} {s t : State} (hc : s.constructed = true) (h : Machine.exec i s = .next t) :
    AtMostOneWrite s t := by
  rcases exec_cases h with ⟨o, ⟨op, -, rfl⟩, -, -, rfl⟩ | ⟨field, -, -, rfl⟩ | ⟨frame, -, rfl⟩ | ⟨p, b, -, -, hnot, -⟩ |
    ⟨reg, v, -, hidle, -, -, rfl⟩
  · exact deliver rfl s
  · exact deliver rfl s
  · exact deliver rfl s
  · simp [hc] at hnot
  · exact clientWrite hidle reg v

end AtMostOneWrite

/-- Settles O33: a step is a write's return, nothing, or a command, and taking a command touches neither outputs nor phase. -/
theorem oneTransportWritePerClientCommand : Obligations.OneTransportWritePerClientCommand := by
  intro s t hc h
  rcases step_cases h with ⟨hw, rfl⟩ | ⟨-, -, rfl⟩ | ⟨i, rest, -, -, -, he⟩
  · exact AtMostOneWrite.transportReturn hw
  · exact ⟨rfl, .inl rfl, .inl rfl⟩
  · exact AtMostOneWrite.exec (s := s.takeCommand rest) hc he

/-! ### A legal client command on a ready block -/

/-- A host can present every legal client command (R50). -/
theorem presentable_of_legalClient {i : Instr} {v : Int} (h : legalClient i v) : i.presentable = true := by
  rcases h with ⟨rfl, -⟩ | ⟨rfl, -⟩ <;> rfl

/-- A client command with nothing to fail hands its frame over and meets the transport's return (R92, R93). -/
theorem runClient_of_ready {own : RangeCheck} {reg v : Int} {s : State} (hs : Ready s) (hown : own.2 = false)
    (hr : Within 0 0xFFFFFFFF reg) (hv : Within 0 255 v) :
    runClient own reg v s = .next (transportReturn (transportWrite (emitFrame (clientOperands reg v s)) s)) :=
  runClient_eq_next.2 ⟨hs.idle, hs.constructed,
    .inr ⟨hown, .inr ⟨clientOperands_accepted hr hv hs.port_legal hs.pmax_legal, rfl⟩⟩⟩

/-- So does every legal client command on a ready block. -/
theorem exec_of_legalClient {i : Instr} {v : Int} {s : State} (hs : Ready s) (h : legalClient i v) :
    ∃ reg, exec i s = .next (transportReturn (transportWrite (emitFrame (clientOperands reg v s)) s)) := by
  rcases h with ⟨rfl, hv⟩ | ⟨rfl, hv⟩
  · exact ⟨brightnessRegister, runClient_of_ready hs (outside_eq_false.2 hv) (by decide) hv⟩
  · exact ⟨patternRegister, runClient_of_ready hs (outside_eq_false.2 hv) (by decide) ⟨by omega, by omega⟩⟩

/-! ### A run of answered client commands -/

/-- SEQ after `k` successful client commands (R94). -/
def State.seqAfter (s : State) (k : Nat) : Byte :=
  if s.params.seqInc then BitVec.ofNat 8 (s.seq.toNat + k) else s.seq

theorem State.seqAfter_zero (s : State) : s.seqAfter 0 = s.seq := by
  simp [State.seqAfter]

theorem State.seqAfter_one (s : State) : s.seqAfter 1 = (seqUpdate s).seq := by
  cases h : s.params.seqInc <;> simp [State.seqAfter, h, BitVec.ofNat_add]

/-- What a run of client commands that hands over `frames`, all answered Ok, leaves with the given inputs still waiting. -/
def State.afterRun (frames : List (List Byte)) (more : List Instr) (later : List TransportReply) (s : State) : State :=
  { s with presented := more, replies := later, seq := s.seqAfter frames.length
           handed := s.handed ++ frames.map (fun F => ⟨s.transport, F⟩)
           delivered := s.delivered ++ List.replicate frames.length .ok }

/-- After one command `k` more count as `k + 1`. -/
theorem State.seqAfter_afterRun (F : List Byte) (more : List Instr) (later : List TransportReply) (s : State) (k : Nat) :
    (s.afterRun [F] more later).seqAfter k = s.seqAfter (k + 1) := by
  cases h : s.params.seqInc
  · simp [State.seqAfter, State.afterRun, h]
  · apply BitVec.eq_of_toNat_eq
    simp only [State.seqAfter, State.afterRun, h, if_true, BitVec.toNat_ofNat, List.length_singleton]
    omega

/-- A run of no commands. -/
theorem State.afterRun_nil (s : State) : s.afterRun [] s.presented s.replies = s := by
  simp [State.afterRun, State.seqAfter_zero]

/-- A run after one command is the run with that command first. -/
theorem State.afterRun_cons (F : List Byte) (frames : List (List Byte)) (rest more : List Instr)
    (replies later : List TransportReply) (s : State) :
    (s.afterRun [F] rest replies).afterRun frames more later = s.afterRun (F :: frames) more later := by
  rw [State.afterRun, State.seqAfter_afterRun]
  simp [State.afterRun, List.replicate_succ]

/-- A block stays ready along a run. -/
theorem ready_afterRun {s : State} (hs : Ready s) (frames : List (List Byte)) (more : List Instr)
    (later : List TransportReply) : Ready (s.afterRun frames more later) :=
  ⟨hs.idle, hs.constructed, hs.port_legal, hs.pmax_legal⟩

/-- A write answered Ok hands its frame over, updates SEQ and ends with Ok. -/
theorem transportReturn_transportWrite_of_returned {s : State} {n : Nat} {later : List TransportReply}
    (hidle : s.phase = .idle) (hr : s.replies = .returned n :: later) (F : List Byte) :
    transportReturn (transportWrite F s) = s.afterRun [F] s.presented later := by
  simp [transportReturn, hr, deliver, seqUpdate, endWrite, transportWrite, State.afterRun, State.seqAfter_one, hidle]

/-- A client command's frame as far as a run speaks of it: 21 bytes that carry the value and the sequence number. -/
def CarriesValue (v : Int) (seq : Byte) (F : List Byte) : Prop :=
  F.length = 21 ∧ F[18]? = some (BitVec.ofInt 8 v) ∧ F[3]? = some seq

/-- Within a frame `F[k]` is the byte the list holds there (R10). -/
theorem getElem?_eq_byteAt {F : List Byte} {k : Nat} (h : k < F.length) : F[k]? = some (byteAt F k) := by
  rw [List.getElem?_eq_getElem h, byteAt, List.getD_eq_getElem _ _ h]

/-- The frame of a client command carries its value and SEQ. -/
theorem carriesValue_clientFrame (reg v : Int) (s : State) :
    CarriesValue v s.seq (emitFrame (clientOperands reg v s)) := by
  have hlen : (emitFrame (clientOperands reg v s)).length = 21 := length_emitFrame _
  refine ⟨hlen, ?_, ?_⟩
  · rw [getElem?_eq_byteAt (by omega), byteAt_payload_clientFrame, byteOfInt]
  · rw [getElem?_eq_byteAt (by omega), byteAt_sequence_clientFrame]

/-- One step of a run: a ready block takes the legal client command presented, and the transport answers Ok. -/
theorem step_of_answered_client {i : Instr} {v : Int} {rest : List Instr} {n : Nat} {later : List TransportReply} {s : State}
    (hs : Ready s) (hi : legalClient i v) (hq : s.presented = i :: rest) (hr : s.replies = .returned n :: later) :
    ∃ F, CarriesValue v s.seq F ∧ step s = .next (s.afterRun [F] rest later) := by
  have htake : Ready (s.takeCommand rest) := ⟨hs.idle, hs.constructed, hs.port_legal, hs.pmax_legal⟩
  obtain ⟨reg, he⟩ := exec_of_legalClient htake hi
  refine ⟨_, carriesValue_clientFrame reg v (s.takeCommand rest), ?_⟩
  rw [step_of_presented hs.idle hq (presentable_of_legalClient hi), he,
    transportReturn_transportWrite_of_returned htake.idle hr]
  rfl

/-- A run begins with its first step. -/
theorem run_succ_of_step {s t : State} (h : step s = .next t) (n : Nat) :
    Host.Core.run Sys2Proof.core (n + 1) s = Host.Core.run Sys2Proof.core n t := by
  have hcore : Sys2Proof.core.step s = .next t := h
  simp only [Host.Core.run, hcore]

/-- Legal client commands, presented in order and all answered Ok, complete in as many steps, each handing over a frame that
carries its value and the SEQ of its turn (R41, R94). -/
theorem run_of_answered_clients (cmds : List (Instr × Int)) (results : List Nat) (more : List Instr)
    (later : List TransportReply) (s : State) (hs : Ready s) (hlegal : ∀ c ∈ cmds, legalClient c.1 c.2)
    (hlen : results.length = cmds.length) (hq : s.presented = cmds.map Prod.fst ++ more)
    (hr : s.replies = results.map .returned ++ later) :
    ∃ frames : List (List Byte), frames.length = cmds.length ∧
      Host.Core.run Sys2Proof.core cmds.length s = .next (s.afterRun frames more later) ∧
      ∀ (k : Nat) (c : Instr × Int) (F : List Byte), cmds[k]? = some c → frames[k]? = some F →
        CarriesValue c.2 (s.seqAfter k) F := by
  induction cmds generalizing results s with
  | nil =>
    obtain rfl : results = [] := List.eq_nil_of_length_eq_zero hlen
    obtain rfl : s.presented = more := hq
    obtain rfl : s.replies = later := hr
    exact ⟨[], rfl, congrArg Host.Outcome.next s.afterRun_nil.symm, by simp⟩
  | cons c cmds ih =>
    obtain ⟨n, results, rfl⟩ := List.exists_cons_of_length_eq_add_one hlen
    obtain ⟨hc, hcmds⟩ := List.forall_mem_cons.1 hlegal
    obtain ⟨F, hF, hstep⟩ := step_of_answered_client (rest := cmds.map Prod.fst ++ more)
      (later := results.map TransportReply.returned ++ later) hs hc hq hr
    obtain ⟨frames, hcount, hrun, hframes⟩ :=
      ih results _ (ready_afterRun hs [F] _ _) hcmds (Nat.succ.inj hlen) rfl rfl
    rw [State.afterRun_cons] at hrun
    refine ⟨F :: frames, congrArg Nat.succ hcount, (run_succ_of_step hstep _).trans hrun, ?_⟩
    rintro (_ | k) c' F' hc' hF'
    · obtain rfl : c = c' := Option.some.inj hc'
      obtain rfl : F = F' := Option.some.inj hF'
      rwa [State.seqAfter_zero]
    · have hk := hframes k c' F' hc' hF'
      rwa [State.seqAfter_afterRun] at hk

/-- Settles O35: the run's frames, with the state it leaves written out. -/
theorem seqCountsTheFramesOfARun : Obligations.SeqCountsTheFramesOfARun := by
  intro cmds results more later s hs hlegal hlen hq hr
  obtain ⟨frames, hcount, hrun, hframes⟩ := run_of_answered_clients cmds results more later s hs hlegal hlen hq hr
  exact ⟨_, frames, hrun, hcount, by rw [State.afterRun, hcount]; rfl, hframes⟩

end Sys2Proof.Machine
end

section
/-! PROOF. Frames and their fields: the rows of the four shapes by the bytes they fix, the BUILD operands a frame holds, and that a
frame of a shape's row with a checksum that holds is the one BUILD emits for the operands it holds (R46, R48, R57, R88). -/

namespace Sys2Proof.Machine

open Sys2Proof.Claims

/-! ### The shape rows -/

/-- A mask byte FF asks for the whole byte (R57). -/
@[simp] theorem and_fullMask (b : Byte) : b &&& 255#8 = b := BitVec.and_allOnes

/-- A frame of a shape's row: the joint bytes of the two mode operands and the constant bytes (R48, R57). -/
theorem shapeRow_covers_iff {c w : Bool} {F : List Byte} :
    (shapeRow c w).covers F = true ↔
      byteAt F 0 = (if c then 0x55 else 0xAA) ∧ byteAt F 1 = (if c then 0xAA else 0x55) ∧ byteAt F 4 = 0xFE ∧
        byteAt F 5 = 0x00 ∧ byteAt F 6 = 0x01 ∧ byteAt F 8 = (if c then 0xFF else 0x00) ∧
        byteAt F 9 = (if c then 0xFF else 0x00) ∧ byteAt F 10 = (if w then 0x01 else 0x00) ∧ byteAt F 11 = 0x00 ∧
        byteAt F 17 = 0x00 := by
  cases c <;> cases w <;>
    simp [Row.covers, range_headerLength, shapeRow, commandWriteRow, commandReadRow, responseWriteRow, responseReadRow,
      shapeMask, byteAt]

/-- A frame belongs to the row of at most one shape: the marker and the direction code differ (R57, R68, R76). -/
theorem shapeRow_covers_unique {c w c' w' : Bool} {F : List Byte} (h : (shapeRow c w).covers F = true)
    (h' : (shapeRow c' w').covers F = true) : c = c' ∧ w = w' := by
  obtain ⟨hmark, -, -, -, -, -, -, hdir, -⟩ := shapeRow_covers_iff.1 h
  obtain ⟨hmark', -, -, -, -, -, -, hdir', -⟩ := shapeRow_covers_iff.1 h'
  rw [hmark] at hmark'
  rw [hdir] at hdir'
  constructor
  · cases c <;> cases c' <;> simp at hmark' ⊢
  · cases w <;> cases w' <;> simp at hdir' ⊢

/-- Which rows of the four shapes a frame of one of them belongs to. -/
theorem shapeRow_covers_eq {c w : Bool} {F : List Byte} (h : (shapeRow c w).covers F = true) (c' w' : Bool) :
    (shapeRow c' w').covers F = (c' == c && w' == w) := by
  rw [Bool.eq_iff_iff, Bool.and_eq_true, beq_iff_eq, beq_iff_eq]
  exact ⟨fun h' => shapeRow_covers_unique h' h, fun ⟨hc, hw⟩ => by rw [hc, hw, h]⟩

/-- A frame of BUILD's row: the constant bytes (R48, R57). -/
theorem buildRow_covers_iff {F : List Byte} :
    buildRow.covers F = true ↔
      byteAt F 4 = 0xFE ∧ byteAt F 5 = 0x00 ∧ byteAt F 6 = 0x01 ∧ byteAt F 11 = 0x00 ∧ byteAt F 17 = 0x00 := by
  simp [Row.covers, range_headerLength, buildRow, byteAt]

/-- A frame of a shape's row belongs to BUILD's row (R57). -/
theorem buildRow_covers_of_shapeRow {c w : Bool} {F : List Byte} (h : (shapeRow c w).covers F = true) :
    buildRow.covers F = true := by
  obtain ⟨-, -, h4, h5, h6, -, -, -, h11, h17⟩ := shapeRow_covers_iff.1 h
  exact buildRow_covers_iff.2 ⟨h4, h5, h6, h11, h17⟩

/-! ### The operands a frame holds -/

/-- The BUILD operands read from a frame's fields, with the mode operands given. -/
def operandsOf (isCommand isWrite : Bool) (F : List Byte) : BuildOperands :=
  ⟨sequenceOf F, registerOf F, lengthOf F, payloadOf F, portOf F, isCommand, isWrite, ackOf F⟩

/-- Little-endian bytes are those of the value they hold (R10). -/
theorem littleEndian_littleEndianValue (bs : List Byte) : littleEndian bs.length (littleEndianValue bs) = bs := by
  induction bs with
  | nil => rfl
  | cons b bs ih =>
    have hb : b.toNat < 2 ^ 8 := b.isLt
    have hdiv : (b.toNat + 256 * littleEndianValue bs) / 256 = littleEndianValue bs := by omega
    have hlow : byteOfNat (b.toNat + 256 * littleEndianValue bs) = b := by
      apply BitVec.eq_of_toNat_eq
      simp only [toNat_byteOfNat]
      omega
    simp only [List.length_cons, littleEndian, littleEndianValue, hdiv, hlow, ih]

/-- k bytes hold an integer below 256^k (R10). -/
theorem littleEndianValue_lt (bs : List Byte) : littleEndianValue bs < 256 ^ bs.length := by
  rw [← littleEndian_littleEndianValue bs, littleEndianValue_littleEndian, length_littleEndian]
  exact Nat.mod_lt _ (by positivity)

/-- The address field holds a 32-bit value (R78). -/
theorem within_registerOf (F : List Byte) : Within 0 0xFFFFFFFF (registerOf F) := by
  have hlt := littleEndianValue_lt [byteAt F 12, byteAt F 13, byteAt F 14, byteAt F 15]
  norm_num at hlt
  simp only [registerOf, Within]
  omega

/-- What a frame holds fits the fields it was read from (R51). -/
theorem operandsOf_fits (c w : Bool) (F : List Byte) : (operandsOf c w F).Fits := by
  have hport := within_intOfByte (byteAt F 7)
  have hlen := within_intOfByte (byteAt F 16)
  refine ⟨within_intOfByte _, ?_, within_registerOf F, ?_, ?_, within_intOfByte _⟩
  · simp only [operandsOf, portOf, Within] at *; omega
  · simp only [operandsOf, lengthOf, Within] at *; omega
  · simp only [operandsOf, payloadOf, List.mem_map]
    rintro v ⟨b, -, rfl⟩
    exact within_intOfByte b

/-- The length field carries the declared length modulo 256 and no more (R79). -/
theorem lengthOf_emod (F : List Byte) : lengthOf F % 256 = lengthOf F := by
  have hlen := within_intOfByte (byteAt F 16)
  simp only [lengthOf, Within] at *
  omega

/-- The payload is the bytes between header and checksum (R46). -/
theorem length_payloadOf {F : List Byte} (h : 20 ≤ F.length) : (payloadOf F).length = F.length - 20 := by
  simp [payloadOf, headerLength, frameOverhead]
  omega

/-! ### A frame is the emission of what it holds -/

/-- The address bytes of the address a frame holds are the frame's (R78). -/
theorem addressByte_registerOf (F : List Byte) :
    addressByte (registerOf F) 0 = byteAt F 12 ∧ addressByte (registerOf F) 1 = byteAt F 13 ∧
      addressByte (registerOf F) 2 = byteAt F 14 ∧ addressByte (registerOf F) 3 = byteAt F 15 := by
  have h := littleEndian_address _ (within_registerOf F)
  rw [registerOf, Int.toNat_natCast] at h
  have hb := littleEndian_littleEndianValue [byteAt F 12, byteAt F 13, byteAt F 14, byteAt F 15]
  simpa [registerOf] using h.symm.trans hb

/-- The first 18 bytes of a frame, byte by byte. -/
theorem take_headerLength {F : List Byte} (h : 18 ≤ F.length) : F.take 18 = (List.range 18).map (byteAt F) := by
  apply List.ext_getElem
  · simp [h]
  · intro k hk _
    simp only [List.length_take] at hk
    simp [byteAt, List.getElem?_eq_getElem (show k < F.length by omega)]

/-- The header of a frame of a shape's row is the one BUILD emits for what the frame holds (R46, R48). -/
theorem emitHeader_operandsOf {c w : Bool} {F : List Byte} (hlen : 18 ≤ F.length)
    (h : (shapeRow c w).covers F = true) : emitHeader (operandsOf c w F) = F.take 18 := by
  obtain ⟨h0, h1, h4, h5, h6, h8, h9, h10, h11, h17⟩ := shapeRow_covers_iff.1 h
  obtain ⟨a0, a1, a2, a3⟩ := addressByte_registerOf F
  have hlow : lengthLow (lengthOf F) = byteAt F 16 := by
    rw [lengthLow_eq (lengthOf F) (within_intOfByte _).1, lengthOf_emod, lengthOf, byteOfInt_intOfByte]
  have hport : portIndex (portOf F) = byteAt F 7 := by
    rw [portIndex, portOf, Int.add_sub_cancel, byteOfInt_intOfByte]
  rw [take_headerLength hlen, emitHeader_eq, lengthHigh_eq]
  show _ = [0, 1, 2, 3, 4, 5, 6, 7, 8, 9, 10, 11, 12, 13, 14, 15, 16, 17].map (byteAt F)
  cases c <;> cases w <;> simp [operandsOf, sequenceOf, ackOf, h0, h1, h4, h5, h6, h8, h9, h10, h11, h17, a0, a1, a2, a3, hlow, hport]

/-- So is everything before the checksum. -/
theorem bodyOf_operandsOf {c w : Bool} {F : List Byte} (hlen : 20 ≤ F.length) (h : (shapeRow c w).covers F = true) :
    bodyOf (operandsOf c w F) = F.take (F.length - 2) := by
  have hpay : (payloadOf F).map byteOfInt = (F.drop 18).take (F.length - 20) := by
    have hid : byteOfInt ∘ intOfByte = id := funext byteOfInt_intOfByte
    rw [payloadOf, List.map_map, hid, List.map_id, headerLength, frameOverhead]
  have hsplit : F.length - 2 = 18 + (F.length - 20) := by omega
  rw [bodyOf, emitHeader_operandsOf (by omega) h, operandsOf, hpay, hsplit, List.take_add]

/-- A frame of a shape's row whose checksum holds is the one BUILD emits for what it holds (R46, R88). -/
theorem emitFrame_operandsOf {c w : Bool} {F : List Byte} (hlen : 20 ≤ F.length) (h : (shapeRow c w).covers F = true)
    (hsum : checksumHolds F = true) : emitFrame (operandsOf c w F) = F := by
  have htwo : (F.drop (F.length - 2)).length = 2 := by rw [List.length_drop]; omega
  have htail := littleEndian_littleEndianValue (F.drop (F.length - 2))
  rw [htwo, of_decide_eq_true hsum] at htail
  rw [emitFrame_eq, ← littleEndian_checksum, bodyOf_operandsOf hlen h, htail, List.take_append_drop]

/-- What the frame of a BUILD holds: its operands, the declared length modulo 256 (R79). -/
theorem operandsOf_emitFrame {o : BuildOperands} (h : o.Fits) :
    operandsOf o.isCommand o.isWrite (emitFrame o) = { o with payloadLength := o.payloadLength % 256 } := by
  simp only [operandsOf, sequenceOf_emitFrame h, registerOf_emitFrame h, lengthOf_emitFrame h, payloadOf_emitFrame h,
    portOf_emitFrame h, ackOf_emitFrame h]

end Sys2Proof.Machine
end

section
/-! PROOF. What a frame is read back as: `decode` on a frame of a shape's row is `onWire` of the operands the frame holds, and `onWire`
is the client command whose BUILD the operands are or else the shape of the BUILD.  Both round trips follow (R46, R57, R88). -/

namespace Sys2Proof.Machine

open Sys2Proof.Claims

/-! ### The client rows, by the operands they fix -/

/-- A byte holds a value exactly when it is that value's byte. -/
theorem intOfByte_eq_iff {b : Byte} {v : Int} (h : Within 0 255 v) : intOfByte b = v ↔ b = byteOfInt v :=
  ⟨fun hb => by rw [← hb, byteOfInt_intOfByte], fun hb => by rw [hb, intOfByte_byteOfInt h]⟩

/-- The address field holds an address exactly when it holds its four bytes (R78). -/
theorem registerOf_eq_iff {F : List Byte} {r : Int} (h : Within 0 0xFFFFFFFF r) :
    registerOf F = r ↔ byteAt F 12 = addressByte r 0 ∧ byteAt F 13 = addressByte r 1 ∧ byteAt F 14 = addressByte r 2 ∧
      byteAt F 15 = addressByte r 3 := by
  constructor
  · rintro rfl
    obtain ⟨a0, a1, a2, a3⟩ := addressByte_registerOf F
    exact ⟨a0.symm, a1.symm, a2.symm, a3.symm⟩
  · rintro ⟨b0, b1, b2, b3⟩
    rw [registerOf, b0, b1, b2, b3, ← littleEndian_address r h, littleEndianValue_littleEndian]
    simp only [Within] at h
    norm_num
    omega

/-- The row of a client command asks of a command-write frame what the command's BUILD fixes: declared length 1, acknowledgement
flag 0 and its register (R57, R61). -/
theorem clientRow_covers_iff_fields {r : Row} {reg : Int} {F : List Byte}
    (h : (r = setbrtRow ∧ reg = brightnessRegister) ∨ (r = showpatRow ∧ reg = patternRegister))
    (hF : commandWriteRow.covers F = true) :
    r.covers F = true ↔ lengthOf F = 1 ∧ ackOf F = 0 ∧ registerOf F = reg := by
  have hreg : Within 0 0xFFFFFFFF reg := by rcases h with ⟨-, rfl⟩ | ⟨-, rfl⟩ <;> decide
  have hbytes : addressByte reg 0 = byteAt r.pattern 12 ∧ addressByte reg 1 = byteAt r.pattern 13 ∧
      addressByte reg 2 = 0 ∧ addressByte reg 3 = 2 := by rcases h with ⟨rfl, rfl⟩ | ⟨rfl, rfl⟩ <;> decide
  obtain ⟨a0, a1, a2, a3⟩ := hbytes
  have hone : byteOfInt 1 = 1 := rfl
  have hzero : byteOfInt 0 = 0 := rfl
  rw [clientRow_covers r (h.imp And.left And.left), hF, registerOf_eq_iff hreg, lengthOf, intOfByte_eq_iff (by decide),
    ackOf, intOfByte_eq_iff (by decide), a0, a1, a2, a3, hone, hzero]
  simp only [Bool.and_eq_true, beq_iff_eq, true_and]
  tauto

/-- A frame of a client row is a command-write frame (R57). -/
theorem commandWriteRow_covers_of_clientRow {r : Row} {F : List Byte} (hr : r = setbrtRow ∨ r = showpatRow)
    (h : r.covers F = true) : commandWriteRow.covers F = true := by
  rw [clientRow_covers r hr] at h
  simp only [Bool.and_eq_true] at h
  tauto

/-! ### What a BUILD is read back as -/

/-- A client command is read exactly where the operands are those of its BUILD (R61). -/
theorem clientOnWire_eq_some {reg len ack : Int} {payload : List Int} {i : Instr} :
    clientOnWire reg len payload ack = some i ↔ len = 1 ∧ ack = 0 ∧ ∃ v, payload = [v] ∧
      ((reg = brightnessRegister ∧ i = .setbrt v) ∨ (reg = patternRegister ∧ i = .showpat v)) := by
  have hne : brightnessRegister ≠ patternRegister := by decide
  match payload with
  | [] => simp [clientOnWire]
  | [v] =>
    simp only [clientOnWire, List.cons.injEq, and_true, exists_eq_left']
    split_ifs with hb hp
    · simp [hb, hne, eq_comm]
    · simp [hp, hne.symm, eq_comm]
    · simp only [false_iff]
      rintro ⟨h1, h2, ⟨h3, -⟩ | ⟨h3, -⟩⟩
      · exact hb ⟨h1, h2, h3⟩
      · exact hp ⟨h1, h2, h3⟩
  | _ :: _ :: _ => simp [clientOnWire]

/-- The two readings of a BUILD's frame: the client command whose BUILD it is, or the shape of the BUILD with the declared length
modulo 256 (R57, R79). -/
theorem onWire_cases (o : BuildOperands) :
    (∃ reg v, o = ⟨o.sequence, reg, o.payloadLength, [v], o.port, true, true, 0⟩ ∧ o.payloadLength % 256 = 1 ∧
        ((reg = brightnessRegister ∧ o.onWire = .setbrt v) ∨ (reg = patternRegister ∧ o.onWire = .showpat v))) ∨
      o.onWire = shape { o with payloadLength := o.payloadLength % 256 } := by
  obtain ⟨sequence, reg, len, payload, port, c, w, ack⟩ := o
  cases c <;> cases w
  · exact .inr rfl
  · exact .inr rfl
  · exact .inr rfl
  · cases hi : clientOnWire reg (len % 256) payload ack with
    | none => exact .inr (by simp [BuildOperands.onWire, hi, shape])
    | some i =>
      obtain ⟨hlen, rfl, v, rfl, h⟩ := clientOnWire_eq_some.1 hi
      exact .inl ⟨reg, v, rfl, hlen, by simpa [BuildOperands.onWire, hi] using h⟩

/-- Reading back looks at the declared length modulo 256 only (R79). -/
theorem onWire_emod (o : BuildOperands) : ({ o with payloadLength := o.payloadLength % 256 } : BuildOperands).onWire = o.onWire := by
  simp only [BuildOperands.onWire, Int.emod_emod]

/-- A shape is read back as its BUILD is. -/
theorem onWire_shape (o : BuildOperands) : (shape o).onWire = o.onWire := by
  obtain ⟨sequence, reg, len, payload, port, c, w, ack⟩ := o
  cases c <;> cases w <;> rfl

/-- What is read back is its own reading. -/
theorem onWire_onWire (o : BuildOperands) : o.onWire.onWire = o.onWire := by
  rcases onWire_cases o with ⟨reg, v, -, -, ⟨-, h⟩ | ⟨-, h⟩⟩ | h
  · rw [h]; rfl
  · rw [h]; rfl
  · rw [h, onWire_shape, onWire_emod, h]

/-! ### What a frame decodes to -/

/-- A payload of one byte is byte 18 of a frame of 21 bytes (R81, R95). -/
theorem payloadOf_of_length {F : List Byte} (h : F.length = 21) : payloadOf F = [intOfByte (byteAt F 18)] := by
  have hdrop : F.drop 18 = byteAt F 18 :: F.drop 19 := by
    rw [List.drop_eq_getElem_cons (by omega), byteAt, List.getD_eq_getElem _ _ (by omega)]
  simp [payloadOf, headerLength, frameOverhead, h, hdrop]

/-- The client command read from a command-write frame is that of the client row it belongs to, if it has 21 bytes (R57, R95). -/
theorem clientOnWire_fields {F : List Byte} (hlen : 20 ≤ F.length) (hF : commandWriteRow.covers F = true) :
    clientOnWire (registerOf F) (lengthOf F) (payloadOf F) (ackOf F) =
      if setbrtRow.covers F && F.length == 21 then some (.setbrt (intOfByte (byteAt F 18)))
      else if showpatRow.covers F && F.length == 21 then some (.showpat (intOfByte (byteAt F 18)))
      else none := by
  have hset := clientRow_covers_iff_fields (.inl ⟨rfl, rfl⟩) hF
  have hshow := clientRow_covers_iff_fields (.inr ⟨rfl, rfl⟩) hF
  by_cases h : F.length = 21
  · simp only [payloadOf_of_length h, clientOnWire, Bool.and_eq_true, beq_iff_eq, h, and_true, hset, hshow]
  · have hnone : clientOnWire (registerOf F) (lengthOf F) (payloadOf F) (ackOf F) = none := by
      rw [Option.eq_none_iff_forall_ne_some]
      intro i hi
      obtain ⟨-, -, v, hv, -⟩ := clientOnWire_eq_some.1 hi
      have hone : (payloadOf F).length = 1 := by rw [hv, List.length_singleton]
      rw [length_payloadOf hlen] at hone
      omega
    simp [hnone, h]

/-- A frame of a shape's row decodes to the reading of the BUILD with the operands it holds. -/
theorem decode_of_covers {c w : Bool} {F : List Byte} (hlen : 20 ≤ F.length) (h : (shapeRow c w).covers F = true) :
    decode F = .ok (operandsOf c w F).onWire := by
  have hrows := shapeRow_covers_eq h
  have hwrite : commandWriteRow.covers F = (true == c && true == w) := hrows true true
  have hread : commandReadRow.covers F = (true == c && false == w) := hrows true false
  have hrwrite : responseWriteRow.covers F = (false == c && true == w) := hrows false true
  have hrread : responseReadRow.covers F = (false == c && false == w) := hrows false false
  have hshort : ¬ F.length < frameOverhead := Nat.not_lt.2 hlen
  by_cases hcw : commandWriteRow.covers F = true
  · obtain ⟨rfl, rfl⟩ := shapeRow_covers_unique (c' := true) (w' := true) h hcw
    rw [decode, if_neg hshort, operandsOf, BuildOperands.onWire]
    simp only [lengthOf_emod, clientOnWire_fields hlen hcw, hcw, if_true, frameOverhead, headerLength]
    split_ifs <;> rfl
  · have hset : setbrtRow.covers F = false :=
      Bool.eq_false_iff.2 fun hs => hcw (commandWriteRow_covers_of_clientRow (.inl rfl) hs)
    have hshow : showpatRow.covers F = false :=
      Bool.eq_false_iff.2 fun hs => hcw (commandWriteRow_covers_of_clientRow (.inr rfl) hs)
    rw [hwrite] at hcw
    rw [decode, if_neg hshort, hset, hshow, hwrite, hread, hrwrite, hrread]
    cases c <;> cases w
    · simp [operandsOf, BuildOperands.onWire, lengthOf_emod]
    · simp [operandsOf, BuildOperands.onWire, lengthOf_emod]
    · simp [operandsOf, BuildOperands.onWire, lengthOf_emod]
    · exact absurd rfl hcw

/-- What decodes is a frame of a shape's row, and decodes as that row says. -/
theorem decode_eq_ok {F : List Byte} {i : Instr} :
    decode F = .ok i ↔
      20 ≤ F.length ∧ ∃ c w, (shapeRow c w).covers F = true ∧ i = (operandsOf c w F).onWire := by
  constructor
  · intro h
    have hcovers : 20 ≤ F.length ∧ ∃ c w, (shapeRow c w).covers F = true := by
      unfold decode at h
      split_ifs at h with hshort hset hshow hcw hcr hrw hrr
      · rw [Bool.and_eq_true] at hset
        exact ⟨Nat.not_lt.1 hshort, true, true, commandWriteRow_covers_of_clientRow (.inl rfl) hset.1⟩
      · rw [Bool.and_eq_true] at hshow
        exact ⟨Nat.not_lt.1 hshort, true, true, commandWriteRow_covers_of_clientRow (.inr rfl) hshow.1⟩
      · exact ⟨Nat.not_lt.1 hshort, true, true, hcw⟩
      · exact ⟨Nat.not_lt.1 hshort, true, false, hcr⟩
      · exact ⟨Nat.not_lt.1 hshort, false, true, hrw⟩
      · exact ⟨Nat.not_lt.1 hshort, false, false, hrr⟩
    obtain ⟨hlen, c, w, hc⟩ := hcovers
    rw [decode_of_covers hlen hc] at h
    exact ⟨hlen, c, w, hc, (Except.ok.inj h).symm⟩
  · rintro ⟨hlen, c, w, hc, rfl⟩
    exact decode_of_covers hlen hc

/-- The frame of a BUILD decodes to what the BUILD is read back as. -/
theorem decode_emitFrame {o : BuildOperands} (h : o.Fits) : decode (emitFrame o) = .ok o.onWire := by
  rw [decode_of_covers (by simp) (shapeRow_covers_emitFrame o), operandsOf_emitFrame h, onWire_emod]

/-! ### The round trips -/

/-- The BUILD that SETBRT or SHOWPAT stands for when SEQ and PORT hold the given values (R61). -/
def clientBuild (reg v : Int) (seq : Byte) (port : Int) : BuildOperands :=
  ⟨intOfByte seq, reg, 1, [v], port, true, true, 0⟩

/-- It is the BUILD the command runs on a block with these registers (R61). -/
theorem clientOperands_eq_clientBuild (reg v : Int) (s : State) : clientOperands reg v s = clientBuild reg v s.seq s.port := rfl

/-- SETBRT has the frame of its BUILD (R61). -/
theorem encodeWith_setbrt (v : Int) (seq : Byte) (port : Int) :
    encodeWith seq port (.setbrt v) = encodeBuild (clientBuild brightnessRegister v seq port) := rfl

/-- So has SHOWPAT, of a code 1 to 9 (R61, R93). -/
theorem encodeWith_showpat {v : Int} (h : Within 1 9 v) (seq : Byte) (port : Int) :
    encodeWith seq port (.showpat v) = encodeBuild (clientBuild patternRegister v seq port) := if_pos h

/-- SHOWPAT has no frame outside the codes 1 to 9 (R93). -/
theorem encodeWith_showpat_eq_none {v : Int} (h : ¬ Within 1 9 v) (seq : Byte) (port : Int) :
    encodeWith seq port (.showpat v) = none := if_neg h

/-- A shape has the frame of its BUILD, whatever SEQ and PORT hold (R57). -/
theorem encodeWith_shape (o : BuildOperands) (seq : Byte) (port : Int) : encodeWith seq port (shape o) = encodeBuild o := by
  obtain ⟨sequence, reg, len, payload, bport, c, w, ack⟩ := o
  cases c <;> cases w <;> rfl

/-- The operands of a client command's BUILD fit when its value and PORT do. -/
theorem clientBuild_fits {reg v port : Int} (hr : Within 0 0xFFFFFFFF reg) (hv : Within 0 255 v) (hp : Within 1 256 port)
    (seq : Byte) : (clientBuild reg v seq port).Fits :=
  ⟨within_intOfByte seq, hp, hr, (by decide : Within 0 65535 1), by simpa [clientBuild] using hv, (by decide : Within 0 255 0)⟩

/-- The BUILD of a client command is read back as the command (R57, R61). -/
theorem onWire_clientBuild {reg v : Int} {i : Instr}
    (h : (reg = brightnessRegister ∧ i = .setbrt v) ∨ (reg = patternRegister ∧ i = .showpat v)) (seq : Byte) (port : Int) :
    (clientBuild reg v seq port).onWire = i := by
  have hi : clientOnWire reg (1 % 256) [v] 0 = some i := clientOnWire_eq_some.2 ⟨rfl, rfl, v, rfl, h⟩
  simp only [clientBuild, BuildOperands.onWire, hi, Option.getD_some]

/-- A frame of an instruction that has one is emitted by a BUILD that is read back as the instruction is. -/
theorem exists_build_of_encodeWith {i : Instr} {seq : Byte} {port : Int} {F : List Byte} (h : encodeWith seq port i = some F) :
    ∃ o : BuildOperands, o.Fits ∧ F = emitFrame o ∧ o.onWire = i.onWire := by
  cases i with
  | construct p b => cases h
  | checksum G => cases h
  | setbrt v =>
    rw [encodeWith_setbrt] at h
    obtain ⟨hf, hF⟩ := encodeBuild_eq_some.1 h
    exact ⟨_, hf, hF, onWire_clientBuild (.inl ⟨rfl, rfl⟩) seq port⟩
  | showpat v =>
    by_cases hv : Within 1 9 v
    · rw [encodeWith_showpat hv] at h
      obtain ⟨hf, hF⟩ := encodeBuild_eq_some.1 h
      exact ⟨_, hf, hF, onWire_clientBuild (.inr ⟨rfl, rfl⟩) seq port⟩
    · rw [encodeWith_showpat_eq_none hv] at h
      cases h
  | _ =>
    obtain ⟨hf, hF⟩ := encodeBuild_eq_some.1 h
    exact ⟨_, hf, hF, rfl⟩

/-- A legal client command has the frame of its BUILD (R52, R61). -/
theorem encodeWith_of_legalClient {i : Instr} {v port : Int} (h : legalClient i v) (hp : Within 1 256 port) (seq : Byte) :
    ∃ F, encodeWith seq port i = some F := by
  rcases h with ⟨rfl, hv⟩ | ⟨rfl, hv⟩
  · rw [encodeWith_setbrt]
    exact ⟨_, encodeBuild_eq_some.2 ⟨clientBuild_fits (by decide) hv hp seq, rfl⟩⟩
  · rw [encodeWith_showpat hv]
    exact ⟨_, encodeBuild_eq_some.2 ⟨clientBuild_fits (by decide) ⟨by omega, by omega⟩ hp seq, rfl⟩⟩

/-- A client command is read back as itself. -/
theorem onWire_of_legalClient {i : Instr} {v : Int} (h : legalClient i v) : i.onWire = i := by
  rcases h with ⟨rfl, -⟩ | ⟨rfl, -⟩ <;> rfl

/-- Settles O43: a frame of an instruction is a BUILD's frame, which decodes to what the instruction is read back as. -/
theorem decodeOfEncodeIsTheCommand : Obligations.DecodeOfEncodeIsTheCommand := by
  have hdecode {i : Instr} {seq : Byte} {port : Int} {F : List Byte} (h : encodeWith seq port i = some F) :
      decode F = .ok i.onWire := by
    obtain ⟨o, hf, rfl, ho⟩ := exists_build_of_encodeWith h
    rw [decode_emitFrame hf, ho]
  refine ⟨fun i seq port F _ _ h => hdecode h, fun i v seq port hi hlo hhi => ?_⟩
  obtain ⟨F, hF⟩ := encodeWith_of_legalClient hi ⟨hlo, hhi⟩ seq
  exact ⟨F, hF, (hdecode hF).trans (congrArg Except.ok (onWire_of_legalClient hi))⟩

/-- A byte sequence whose checksum holds is the frame of the BUILD it decodes to the reading of (R46, R88). -/
theorem encodeBuild_operandsOf {c w : Bool} {F : List Byte} (hlen : 20 ≤ F.length) (h : (shapeRow c w).covers F = true)
    (hsum : checksumHolds F = true) : encodeBuild (operandsOf c w F) = some F :=
  encodeBuild_eq_some.2 ⟨operandsOf_fits c w F, (emitFrame_operandsOf hlen h hsum).symm⟩

/-- What a BUILD is read back as has the BUILD's frame, with SEQ and PORT as the BUILD has them, unless it is SHOWPAT of no
code. -/
theorem encodeWith_onWire {o : BuildOperands} {seq : Byte} (hseq : o.sequence = intOfByte seq)
    (hlen : o.payloadLength % 256 = o.payloadLength) (hcode : ∀ c, o.onWire = .showpat c → Within 1 9 c) :
    encodeWith seq o.port o.onWire = encodeBuild o := by
  rcases onWire_cases o with ⟨reg, v, ho, hone, h⟩ | h
  · have hbuild : o = clientBuild reg v seq o.port := by
      rw [ho, clientBuild, hseq, ← hlen, hone]
    rcases h with ⟨rfl, h⟩ | ⟨rfl, h⟩
    · rw [h, encodeWith_setbrt, ← hbuild]
    · rw [h, encodeWith_showpat (hcode v h), ← hbuild]
  · rw [h, encodeWith_shape, hlen]

/-- Settles O44: the frame is that of the BUILD with the operands it holds, and so that of the BUILD's reading. -/
theorem encodeOfDecodeIsTheFrame : Obligations.EncodeOfDecodeIsTheFrame := by
  intro F i hsum hdec hcode
  obtain ⟨hlen, c, w, hcov, rfl⟩ := decode_eq_ok.1 hdec
  rw [← encodeBuild_operandsOf hlen hcov hsum]
  exact encodeWith_onWire rfl (lengthOf_emod F) hcode

/-- Settles O47: a frame of a shape's row belongs to BUILD's row, and readings are their own readings. -/
theorem decodeReachesOnlyTheSpecificRows : Obligations.DecodeReachesOnlyTheSpecificRows := by
  intro F i hdec
  obtain ⟨hlen, c, w, hcov, rfl⟩ := decode_eq_ok.1 hdec
  exact ⟨hlen, presentable_of_decode hdec, onWire_onWire _, buildRow_covers_of_shapeRow hcov⟩

/-- A BUILD read back as SHOWPAT is the command-write of that byte to the pattern register (R57, R61). -/
theorem eq_of_onWire_showpat {o : BuildOperands} {v : Int} (h : o.onWire = .showpat v) :
    o = ⟨o.sequence, patternRegister, o.payloadLength, [v], o.port, true, true, 0⟩ ∧ o.payloadLength % 256 = 1 := by
  rcases onWire_cases o with ⟨reg, v', ho, hone, ⟨-, h'⟩ | ⟨rfl, h'⟩⟩ | h'
  · simp [h'] at h
  · obtain rfl : v' = v := by simpa [h'] using h
    exact ⟨ho, hone⟩
  · rw [h', shape] at h
    split at h <;> cases h

/-- Settles O51: the operands the frame holds are those of that BUILD. -/
theorem patternFramesOutsideTheCodesAreBuildFrames : Obligations.PatternFramesOutsideTheCodesAreBuildFrames := by
  intro F v hsum hdec
  refine ⟨?_, fun hv seq port => encodeWith_showpat_eq_none (by simp only [Within]; omega) seq port⟩
  obtain ⟨hlen, c, w, hcov, hi⟩ := decode_eq_ok.1 hdec
  obtain ⟨ho, hone⟩ := eq_of_onWire_showpat hi.symm
  have hbuild : operandsOf c w F = ⟨sequenceOf F, patternRegister, 1, [v], portOf F, true, true, 0⟩ := by
    rw [ho]; simp [operandsOf, ← hone, lengthOf_emod]
  rw [← encodeBuild_operandsOf hlen hcov hsum, hbuild]
  rfl

/-- Settles O46: the vectors, byte by byte. -/
theorem framesFromTheTableDecode : Obligations.FramesFromTheTableDecode :=
  ⟨rfl, rfl, rfl, rfl, rfl, rfl, rfl⟩

end Sys2Proof.Machine
end

section
/-! PROOF. The frames the instructions emit: BUILD's frame in the literal bytes of the field table (R46), what any delivered or handed
frame is, and the frames of the two client commands (R61, R93). -/

namespace Sys2Proof.Machine

open Sys2Proof.Claims

/-! ### The literal frame -/

/-- The table's header is the emitted one, for operands that fit (R46, R64). -/
theorem headerBytes_eq {o : BuildOperands} (h : o.Fits) : headerBytes o = emitHeader o := by
  obtain ⟨-, -, hreg, hlen, -, -⟩ := h
  have htop : o.registerAddress / 0x1000000 % 256 = o.registerAddress / 2 ^ (8 * 3) % 256 := by norm_num
  rw [emitHeader_eq, lengthHigh_eq, lengthLow_eq _ hlen.1, addressByte_eq _ 0 hreg.1, addressByte_eq _ 1 hreg.1,
    addressByte_eq _ 2 hreg.1, addressByte_eq _ 3 hreg.1]
  simp [headerBytes, byteOfInt, portIndex]

/-- So is the table's body. -/
theorem bodyBytes_eq {o : BuildOperands} (h : o.Fits) : bodyBytes o = bodyOf o := by
  rw [bodyBytes, bodyOf, headerBytes_eq h]
  rfl

/-- The checksum of the claims is CHECKSUM's (R83). -/
theorem checksumOf_eq (F : List Byte) : checksumOf F = (checksum F).toNat := by
  rw [checksumOf, sumFrom3, toNat_checksum, checksumSum, byteSum_eq_sum]
  rfl

/-- The low checksum byte by remainder (R82). -/
theorem lowByte_eq (c : Word16) : lowByte c = BitVec.ofNat 8 (c.toNat % 256) := by
  apply BitVec.eq_of_toNat_eq
  simp

/-- The high checksum byte by division (R82). -/
theorem highByte_eq (c : Word16) : highByte c = BitVec.ofNat 8 (c.toNat / 256) := by
  have hc : c.toNat < 2 ^ 16 := c.isLt
  apply BitVec.eq_of_toNat_eq
  simp only [toNat_highByte, BitVec.toNat_ofNat]
  omega

/-- The literal frame is the emitted one (R46, R64, R82). -/
theorem frameBytes_eq {o : BuildOperands} (h : o.Fits) : frameBytes o = emitFrame o := by
  rw [frameBytes, checksumOf_eq, bodyBytes_eq h, emitFrame_eq, lowByte_eq, highByte_eq]

/-! ### What BUILD delivers -/

/-- BUILD delivers its frame for accepted operands (R64, R65). -/
theorem runBuild_of_accepted {o : BuildOperands} {s : State} (hidle : s.phase = .idle) (ha : o.Accepted s.params.pmax) :
    runBuild o s = .next (deliver (.frame (emitFrame o)) s) :=
  runBuild_eq_next.2 ⟨hidle, .inl ⟨ha, rfl⟩⟩

/-- That frame in the literal bytes of the field table. -/
theorem runBuild_delivers_frameBytes {o : BuildOperands} {s : State} (hidle : s.phase = .idle)
    (ha : o.Accepted s.params.pmax) :
    runBuild o s = .next { s with delivered := s.delivered ++ [.frame (frameBytes o)] } := by
  rw [frameBytes_eq ha.1]
  exact runBuild_of_accepted hidle ha

/-- A shape runs as its BUILD (R57). -/
theorem exec_shape (o : BuildOperands) (s : State) : exec (shape o) s = runBuild o s := by
  obtain ⟨sequence, reg, len, payload, port, c, w, ack⟩ := o
  cases c <;> cases w <;> rfl

/-- A frame that BUILD delivers is the emission of its operands. -/
theorem eq_emitFrame_of_runBuild {o : BuildOperands} {s t : State} {F : List Byte} (h : runBuild o s = .next t)
    (hd : t.delivered = s.delivered ++ [.frame F]) : F = emitFrame o := by
  obtain ⟨-, ⟨-, rfl⟩ | ⟨field, -, rfl⟩⟩ := runBuild_eq_next.1 h
  · simpa using hd.symm
  · simp at hd

/-- Settles O1. -/
theorem buildDeliversTheFrameOfTheFieldTable : Obligations.BuildDeliversTheFrameOfTheFieldTable :=
  fun _ _ hidle ha => runBuild_delivers_frameBytes hidle ha

/-- Settles O2: each shape runs BUILD with its two Booleans. -/
theorem buildShapesDeliverTheirFrames : Obligations.BuildShapesDeliverTheirFrames :=
  ⟨fun _ _ _ _ _ _ _ hidle ha => runBuild_delivers_frameBytes hidle ha,
    fun _ _ _ _ _ _ _ hidle ha => runBuild_delivers_frameBytes hidle ha,
    fun _ _ _ _ _ _ _ hidle ha => runBuild_delivers_frameBytes hidle ha,
    fun _ _ _ _ _ _ _ hidle ha => runBuild_delivers_frameBytes hidle ha⟩

/-! ### The constant bytes and the rows -/

/-- The transport's return delivers no frame (R39). -/
theorem transportReturn_no_frame (s : State) (F : List Byte) :
    (transportReturn s).delivered ≠ s.delivered ++ [.frame F] := by
  rcases transportReturn_cases s with ⟨-, hr⟩ | ⟨n, rest, -, hr⟩ | ⟨e, rest, -, hr⟩ <;> simp [hr]

/-- A frame that any instruction delivers or hands over is an emission. -/
theorem eq_emitFrame_of_exec {i : Instr} {s t : State} {F : List Byte} (he : exec i s = .next t)
    (h : t.delivered = s.delivered ++ [.frame F] ∨ ∃ h : Handed, t.handed = s.handed ++ [h] ∧ h.frame = F) :
    ∃ o : BuildOperands, F = emitFrame o := by
  rcases h with hd | ⟨h, hh, rfl⟩
  · rcases exec_cases he with ⟨out, ⟨o, -, rfl⟩, -, -, rfl⟩ | ⟨field, -, -, rfl⟩ | ⟨G, -, rfl⟩ | ⟨p, b, -, -, -, rfl⟩ |
      ⟨reg, v, -, -, -, -, rfl⟩
    · exact ⟨o, by simpa using hd.symm⟩
    · simp at hd
    · simp at hd
    · simp at hd
    · exact absurd hd (transportReturn_no_frame _ F)
  · obtain ⟨reg, v, -, -, -, -, rfl, -⟩ := exec_hands_over he hh
    exact ⟨_, rfl⟩

/-- The constant bytes of an emission, and its joint bytes by the two mode operands (R48). -/
theorem getElem?_emitFrame (o : BuildOperands) :
    (emitFrame o)[0]? = some (if o.isCommand then 0x55 else 0xAA) ∧
      (emitFrame o)[1]? = some (if o.isCommand then 0xAA else 0x55) ∧ (emitFrame o)[4]? = some 0xFE ∧
      (emitFrame o)[5]? = some 0x00 ∧ (emitFrame o)[6]? = some 0x01 ∧
      (emitFrame o)[8]? = some (if o.isCommand then 0xFF else 0x00) ∧
      (emitFrame o)[9]? = some (if o.isCommand then 0xFF else 0x00) ∧
      (emitFrame o)[10]? = some (if o.isWrite then 0x01 else 0x00) ∧ (emitFrame o)[11]? = some 0x00 ∧
      (emitFrame o)[17]? = some 0x00 := by
  have hbyte {k : Nat} (hk : k < 20) : (emitFrame o)[k]? = some (byteAt (emitFrame o) k) :=
    getElem?_eq_byteAt (by rw [length_emitFrame]; omega)
  simp only [hbyte, Nat.reduceLT, Option.some.injEq]
  exact shapeRow_covers_iff.1 (shapeRow_covers_emitFrame o)

/-- Settles O5: every frame is an emission, and so is that of BUILD's own operands. -/
theorem everyFrameHasTheConstantBytes : Obligations.EveryFrameHasTheConstantBytes := by
  constructor
  · intro i s t F he h
    obtain ⟨o, rfl⟩ := eq_emitFrame_of_exec he h
    obtain ⟨h0, h1, h4, h5, h6, h8, h9, h10, h11, h17⟩ := getElem?_emitFrame o
    rw [h0, h1, h8, h9, h10]
    refine ⟨h4, h5, h6, h11, h17, ?_, ?_⟩
    · cases o.isCommand <;> simp
    · cases o.isWrite <;> simp
  · intro o s t F he hd
    obtain rfl := eq_emitFrame_of_runBuild he hd
    obtain ⟨h0, h1, -, -, -, h8, h9, h10, -, -⟩ := getElem?_emitFrame o
    rw [h0, h1, h8, h9, h10]
    cases o.isCommand <;> cases o.isWrite <;> simp

/-- Settles O6: an emission belongs to the row of its own shape, and so to BUILD's row and to no other shape's. -/
theorem everyFrameBelongsToExactlyItsShapeRow : Obligations.EveryFrameBelongsToExactlyItsShapeRow := by
  intro o s t F he hd
  obtain rfl := eq_emitFrame_of_runBuild he hd
  have hown := shapeRow_covers_emitFrame o
  have hrow (c w : Bool) := shapeRow_covers_eq hown c w
  refine ⟨buildRow_covers_of_shapeRow hown, (hrow true true).trans ?_, (hrow true false).trans ?_,
    (hrow false true).trans ?_, (hrow false false).trans ?_⟩ <;> simp

/-! ### What a client command hands over -/

/-- A legal client command on a ready block: its BUILD is accepted, the encoder has its frame, and the command hands that frame over
and meets the transport's return (R61, R92, R93). -/
theorem legalClient_emits {i : Instr} {v : Int} {s : State} (hs : Ready s) (h : legalClient i v) :
    ∃ reg, ((i = .setbrt v ∧ reg = brightnessRegister) ∨ (i = .showpat v ∧ reg = patternRegister)) ∧
      (clientOperands reg v s).Accepted s.params.pmax ∧
      encodeWith s.seq s.port i = some (emitFrame (clientOperands reg v s)) ∧
      exec i s = .next (transportReturn (transportWrite (emitFrame (clientOperands reg v s)) s)) := by
  have haccepted {reg : Int} (hr : Within 0 0xFFFFFFFF reg) (hv : Within 0 255 v) :=
    clientOperands_accepted hr hv hs.port_legal hs.pmax_legal
  rcases h with ⟨rfl, hv⟩ | ⟨rfl, hcode⟩
  · have ha := haccepted (reg := brightnessRegister) (by decide) hv
    refine ⟨_, .inl ⟨rfl, rfl⟩, ha, ?_, runClient_of_ready hs (outside_eq_false.2 hv) (by decide) hv⟩
    rw [encodeWith_setbrt, ← clientOperands_eq_clientBuild]
    exact encodeBuild_eq_some.2 ⟨ha.1, rfl⟩
  · have hv : Within 0 255 v := ⟨by omega, by omega⟩
    have ha := haccepted (reg := patternRegister) (by decide) hv
    refine ⟨_, .inr ⟨rfl, rfl⟩, ha, ?_, runClient_of_ready hs (outside_eq_false.2 hcode) (by decide) hv⟩
    rw [encodeWith_showpat hcode, ← clientOperands_eq_clientBuild]
    exact encodeBuild_eq_some.2 ⟨ha.1, rfl⟩

/-- What is handed over after a write and its return is the written frame. -/
theorem handed_transportReturn_transportWrite (F : List Byte) (s : State) :
    (transportReturn (transportWrite F s)).handed = s.handed ++ [⟨s.transport, F⟩] := by simp

/-- Settles O27: the client command hands over the emission of its BUILD, which BUILD delivers. -/
theorem clientCommandsExpandToBuild : Obligations.ClientCommandsExpandToBuild := by
  intro i v reg s hs hi hset hshow
  obtain ⟨reg', hreg, ha, -, he⟩ := legalClient_emits hs hi
  obtain rfl : reg = reg' := by
    rcases hreg with ⟨hi', rfl⟩ | ⟨hi', rfl⟩
    · exact hset ⟨v, hi'⟩
    · exact hshow ⟨v, hi'⟩
  exact ⟨_, _, runBuild_of_accepted hs.idle ha, he, handed_transportReturn_transportWrite _ s⟩

/-- BUILD and its shape have the frame of the field table (R57). -/
theorem encode_toInstr_and_shape {o : BuildOperands} (h : o.Fits) :
    encode o.toInstr = some (emitFrame o) ∧ encode (shape o) = some (emitFrame o) :=
  ⟨encodeBuild_eq_some.2 ⟨h, rfl⟩, by rw [encode, encodeWith_shape]; exact encodeBuild_eq_some.2 ⟨h, rfl⟩⟩

/-- Settles O42. -/
theorem encodingIsTheEmittedFrame : Obligations.EncodingIsTheEmittedFrame := by
  constructor
  · intro o s hidle ha
    obtain ⟨hbuild, hshape⟩ := encode_toInstr_and_shape ha.1
    have hrun := runBuild_of_accepted hidle ha
    exact ⟨emitFrame o, hbuild, hshape, hrun, (exec_shape o s).trans hrun⟩
  · intro i v s hs hi
    obtain ⟨reg, -, -, henc, he⟩ := legalClient_emits hs hi
    exact ⟨_, _, henc, he, handed_transportReturn_transportWrite _ s⟩

/-! ### The receiver's length -/

/-- A receiver counts the declared length modulo 256 (R49, R79). -/
theorem receiverLength_emitFrame {o : BuildOperands} (h : o.Fits) :
    (receiverLength (emitFrame o) : Int) = 20 + o.payloadLength % 256 := by
  rw [← lengthOf_emitFrame h, receiverLength, frameOverhead, lengthOf, intOfByte]
  push_cast
  rfl

/-- Settles O45: the frame has 20 + N bytes, and a client command declares the one byte it has. -/
theorem receiverLengthIsRightExactlyWhenDeclaredSo : Obligations.ReceiverLengthIsRightExactlyWhenDeclaredSo := by
  constructor
  · intro o s hidle ha
    refine ⟨emitFrame o, runBuild_of_accepted hidle ha, ?_⟩
    have hlen := receiverLength_emitFrame ha.1
    rw [length_emitFrame]
    omega
  · intro i s t h he hh
    obtain ⟨reg, v, -, -, -, ha, rfl, -⟩ := exec_hands_over he hh
    have hlen : (receiverLength (emitFrame (clientOperands reg v s)) : Int) = 20 + 1 % 256 :=
      receiverLength_emitFrame ha.1
    show receiverLength (emitFrame (clientOperands reg v s)) = (emitFrame (clientOperands reg v s)).length
    have h21 : (emitFrame (clientOperands reg v s)).length = 21 := length_emitFrame _
    omega

/-! ### The pattern names -/

/-- The checksum of a client command's frame in closed form (R87): 0x5854, the register's bytes and the three variable bytes. -/
theorem toNat_checksum_clientFrame {reg v : Int} {s : State} (hp : Within 1 256 s.port) (hv : Within 0 255 v) :
    ((checksum (bodyOf (clientOperands reg v s))).toNat : Int) =
      0x5854 + ((addressByte reg 0).toNat + (addressByte reg 1).toNat + (addressByte reg 2).toNat +
        (addressByte reg 3).toNat) + s.seq.toNat + (s.port - 1) + v := by
  have hport : ((byteOfInt (s.port - 1)).toNat : Int) = s.port - 1 :=
    toNat_byteOfInt (by simp only [Within] at *; omega)
  have hval : ((byteOfInt v).toNat : Int) = v := toNat_byteOfInt hv
  have hlow : lengthLow 1 = 1 := rfl
  have b0 := (addressByte reg 0).isLt
  have b1 := (addressByte reg 1).isLt
  have b2 := (addressByte reg 2).isLt
  have b3 := (addressByte reg 3).isLt
  have bs := s.seq.isLt
  rw [toNat_checksum, checksumSum_bodyOf, emitHeader_eq, lengthHigh_eq]
  simp only [clientOperands, hlow, if_true, byteOfInt_intOfByte, portIndex, List.drop_succ_cons, List.drop_zero,
    List.map_cons, List.map_nil, byteSum_cons, byteSum_nil, bias, BitVec.toNat_ofNat, BitVec.ofNat_eq_ofNat]
  simp only [Within] at *
  omega

/-- The checksum bytes from C as an integer (R82). -/
theorem checksumBytes_of_toNat {c : Word16} {n : Int} (h : (c.toNat : Int) = n) :
    [lowByte c, highByte c] = [BitVec.ofInt 8 (n % 256), BitVec.ofInt 8 (n / 256)] := by
  subst h
  rw [lowByte_eq, highByte_eq]
  exact congrArg₂ (fun x y => [x, y]) (BitVec.ofInt_natCast 8 _).symm (BitVec.ofInt_natCast 8 _).symm

/-- The frame SHOWPAT hands over is that of R93. -/
theorem emitFrame_showpat {v : Int} {s : State} (hp : Within 1 256 s.port) (hv : Within 1 9 v) :
    emitFrame (clientOperands patternRegister v s) = showpatBytes s.seq s.port v := by
  have haddr : addressByte patternRegister 0 = 1 ∧ addressByte patternRegister 1 = 1 ∧ addressByte patternRegister 2 = 0 ∧
      addressByte patternRegister 3 = 2 := by decide
  obtain ⟨a0, a1, a2, a3⟩ := haddr
  have hc : ((checksum (bodyOf (clientOperands patternRegister v s))).toNat : Int) =
      0x5858 + s.seq.toNat + (s.port - 1) + v := by
    rw [toNat_checksum_clientFrame hp (by simp only [Within] at *; omega), a0, a1, a2, a3]
    rfl
  have hlow : lengthLow 1 = 1 := rfl
  have hseq : BitVec.ofInt 8 (intOfByte s.seq) = s.seq := byteOfInt_intOfByte s.seq
  rw [emitFrame_split, checksumBytes_of_toNat hc, emitHeader_eq, lengthHigh_eq]
  simp [showpatBytes, clientOperands, a0, a1, a2, a3, hlow, hseq, portIndex, byteOfInt]

/-- Nine codes have a name: 1 to 9 (R62). -/
theorem exists_pattern_iff (c : Int) : (1 ≤ c ∧ c ≤ 9) ↔ ∃ p : Pattern, p.code = c := by
  constructor
  · rintro ⟨hlo, hhi⟩
    interval_cases c
    · exact ⟨.normal, rfl⟩
    · exact ⟨.red, rfl⟩
    · exact ⟨.green, rfl⟩
    · exact ⟨.blue, rfl⟩
    · exact ⟨.white, rfl⟩
    · exact ⟨.horizontal, rfl⟩
    · exact ⟨.vertical, rfl⟩
    · exact ⟨.slash, rfl⟩
    · exact ⟨.grayscale, rfl⟩
  · rintro ⟨p, rfl⟩
    cases p <;> decide

/-- Settles O48: a named pattern is its code, and its command hands over the frame of R93. -/
theorem patternNamesAreTheAcceptedCodes : Obligations.PatternNamesAreTheAcceptedCodes := by
  refine ⟨rfl, exists_pattern_iff, fun p s n rest hs hr => ⟨rfl, ?_⟩⟩
  have hcode : Within 1 9 p.code := (exists_pattern_iff p.code).2 ⟨p, rfl⟩
  have hbyte : Within 0 255 p.code := by simp only [Within] at *; omega
  have he : exec (.showNamed p) s = .next _ := runClient_of_ready hs (outside_eq_false.2 hcode) (by decide) hbyte
  rw [emitFrame_showpat hs.port_legal hcode, transportReturn_transportWrite_of_returned hs.idle hr] at he
  exact ⟨_, he, rfl, rfl⟩

end Sys2Proof.Machine
end

section
/-! PROOF. BUILD's frame field by field (R66, R69 to R81): what BUILD answers as a function of operands and PMAX, which range check
raises, and what the bytes of a field hold. -/

namespace Sys2Proof.Machine

open Sys2Proof.Claims

/-! ### BUILD as a function of its operands and PMAX -/

/-- The outcome of a BUILD (R65). -/
def buildOutcome (pmax : Nat) (o : BuildOperands) : CommandOutcome :=
  match buildFrame pmax o with
  | .error field => .validationError field
  | .ok frame => .frame frame

/-- On an idle block BUILD delivers its outcome and does nothing else. -/
theorem runBuild_of_idle {o : BuildOperands} {s : State} (hidle : s.phase = .idle) :
    runBuild o s = .next (deliver (buildOutcome s.params.pmax o) s) := by
  rw [runBuild, whenIdle_idle hidle, buildOutcome]
  cases buildFrame s.params.pmax o <;> rfl

/-- Settles O3: the outcome is `buildOutcome`, whose arguments are the operands and PMAX. -/
theorem buildReadsAndWritesNoState : Obligations.BuildReadsAndWritesNoState := by
  intro o pmax
  refine ⟨buildOutcome pmax o, fun s hidle hpmax => ?_⟩
  subst hpmax
  exact ⟨runBuild_of_idle hidle, (exec_shape o s).trans (runBuild_of_idle hidle)⟩

/-- Settles O4. -/
theorem buildLengthIsTwentyPlusN : Obligations.BuildLengthIsTwentyPlusN := by
  intro o s hidle ha
  have hlen := length_emitFrame o
  refine ⟨emitFrame o, runBuild_of_accepted hidle ha, hlen, fun hone => ?_, fun habsent => ?_⟩
  · rw [hlen, hone]
  · rw [hlen, habsent, List.length_nil]

/-! ### Which range check raises -/

/-- The checks raise as the conditions of the table say, in its order (R100). -/
theorem validateBuild_eq_buildFailure (pmax : Nat) (o : BuildOperands) : validateBuild pmax o = buildFailure pmax o := by
  simp only [validateBuild, buildChecks, firstFailing, buildFailure, outside, Bool.or_eq_true, decide_eq_true_eq,
    List.any_eq_true]

/-- BUILD ends with the error of the first condition that holds (R100, R104). -/
theorem exec_build_of_buildFailure {o : BuildOperands} {s : State} {field : Field} (hidle : s.phase = .idle)
    (h : buildFailure s.params.pmax o = some field) :
    exec o.toInstr s = .next { s with delivered := s.delivered ++ [.validationError field] } :=
  runBuild_eq_next.2 ⟨hidle, .inr ⟨field, (validateBuild_eq_buildFailure _ o).trans h, rfl⟩⟩

/-- A condition of the table does not hold of a value inside its range. -/
theorem not_outside_of_within {lo hi v : Int} (h : Within lo hi v) : ¬ (v < lo ∨ hi < v) := by
  obtain ⟨hlo, hhi⟩ := h
  omega

/-- The payload's condition does not hold of an accepted payload (R67). -/
theorem not_badPayload_of_accepted {pmax : Nat} {p : List Int} (hmax : p.length ≤ pmax) (h : ∀ b ∈ p, Within 0 255 b) :
    ¬ (pmax < p.length ∨ ∃ b ∈ p, b < 0 ∨ 255 < b) := by
  rintro (hlong | ⟨b, hb, hbad⟩)
  · omega
  · exact not_outside_of_within (h b hb) hbad

/-! ### One header byte -/

/-- The frame has each of its header bytes (R46). -/
theorem getElem?_emitFrame_header (o : BuildOperands) {k : Nat} (hk : k < 18) :
    (emitFrame o)[k]? = some (byteAt (emitFrame o) k) :=
  getElem?_eq_byteAt (by rw [length_emitFrame]; omega)

/-- Settles O8: `F[3]` is read back as the sequence number, and its check is the first of all. -/
theorem sequenceIsByteThree : Obligations.SequenceIsByteThree := by
  constructor
  · intro o s hidle ha
    exact ⟨emitFrame o, _, runBuild_of_accepted hidle ha, getElem?_emitFrame_header o (by decide), sequenceOf_emitFrame ha.1⟩
  · intro o s hidle hbad
    refine exec_build_of_buildFailure hidle ?_
    rw [buildFailure, if_pos hbad]

/-- Settles O9: `F[7] + 1` is read back as the port. -/
theorem portIndexIsPortMinusOne : Obligations.PortIndexIsPortMinusOne := by
  constructor
  · intro o s hidle ha
    have hport : ((byteAt (emitFrame o) 7).toNat : Int) + 1 = o.port := portOf_emitFrame ha.1
    exact ⟨emitFrame o, _, runBuild_of_accepted hidle ha, getElem?_emitFrame_header o (by decide), by omega⟩
  · intro o s hidle hseq0 hseq1 hbad
    refine exec_build_of_buildFailure hidle ?_
    rw [buildFailure, if_neg (not_outside_of_within ⟨hseq0, hseq1⟩), if_pos hbad]

/-! ### The acknowledgement flag -/

/-- The header holds the acknowledgement flag in its byte 2 alone (R69). -/
theorem emitHeader_withAck (o : BuildOperands) (ack : Int) :
    emitHeader { o with ack := ack } = (emitHeader o).set 2 (byteOfInt ack) := by
  rw [emitHeader_eq, emitHeader_eq]
  rfl

/-- So does the body. -/
theorem bodyOf_withAck (o : BuildOperands) (ack : Int) :
    bodyOf { o with ack := ack } = (bodyOf o).set 2 (byteOfInt ack) := by
  rw [bodyOf, bodyOf, emitHeader_withAck, List.set_append_left _ _ (by simp)]

/-- The first three bytes are no part of the sum (R84). -/
theorem checksum_set_of_lt {F : List Byte} {k : Nat} (hk : k < 3) (b : Byte) : checksum (F.set k b) = checksum F :=
  checksum_congr (by rw [List.drop_set_of_lt hk])

/-- Frames that differ only in the acknowledgement flag differ only in byte 2 (R69). -/
theorem emitFrame_withAck (o : BuildOperands) (ack : Int) :
    emitFrame { o with ack := ack } = (emitFrame o).set 2 (byteOfInt ack) := by
  rw [emitFrame_eq, emitFrame_eq, bodyOf_withAck, checksum_set_of_lt (by decide),
    List.set_append_left _ _ (by rw [length_bodyOf]; omega)]

/-- Settles O7: the flag is byte 2, which the checksum leaves out, and its check is the last of all. -/
theorem ackIsByteTwoAndOutsideTheChecksum : Obligations.AckIsByteTwoAndOutsideTheChecksum := by
  refine ⟨?_, ?_, ?_⟩
  · intro o s ack hidle ha hack0 hack1
    have ⟨⟨hseq, hport, hreg, hlen, hpay, _⟩, hmax⟩ := ha
    have ha' : ({ o with ack := ack } : BuildOperands).Accepted s.params.pmax :=
      ⟨⟨hseq, hport, hreg, hlen, hpay, hack0, hack1⟩, hmax⟩
    refine ⟨emitFrame o, _, runBuild_of_accepted hidle ha, getElem?_emitFrame_header o (by decide), ackOf_emitFrame ha.1, ?_⟩
    exact emitFrame_withAck o ack ▸ runBuild_of_accepted hidle ha'
  · intro o s ack hidle ha hbad
    obtain ⟨⟨hseq, hport, hreg, hlen, hpay, -⟩, hmax⟩ := ha
    refine exec_build_of_buildFailure hidle ?_
    rw [buildFailure, if_neg (not_outside_of_within hseq), if_neg (not_outside_of_within hport),
      if_neg (not_outside_of_within hreg), if_neg (not_outside_of_within hlen),
      if_neg (not_badPayload_of_accepted hmax hpay), if_pos hbad]
  · intro seq reg len payload port s hidle ha
    refine ⟨_, runBuild_of_accepted hidle ha, ?_⟩
    rw [emitFrame_split, emitHeader_eq]
    rfl

/-! ### Address and declared length -/

/-- Settles O10: offsets 12 to 15 are read back as the address. -/
theorem registerAddressIsLittleEndian : Obligations.RegisterAddressIsLittleEndian := by
  constructor
  · intro o s hidle ha
    refine ⟨emitFrame o, _, _, _, _, runBuild_of_accepted hidle ha, getElem?_emitFrame_header o (by decide),
      getElem?_emitFrame_header o (by decide), getElem?_emitFrame_header o (by decide),
      getElem?_emitFrame_header o (by decide), ?_⟩
    rw [← registerOf_emitFrame ha.1, registerOf]
    simp only [littleEndianValue]
    push_cast
    ring
  · intro o s hidle hseq0 hseq1 hport0 hport1 hbad
    refine exec_build_of_buildFailure hidle ?_
    rw [buildFailure, if_neg (not_outside_of_within ⟨hseq0, hseq1⟩), if_neg (not_outside_of_within ⟨hport0, hport1⟩),
      if_pos hbad]

/-- Settles O11: `F[16]` is read back as the declared length modulo 256, and `F[17]` is a constant byte. -/
theorem dataLengthKeepsTheMaskingQuirk : Obligations.DataLengthKeepsTheMaskingQuirk := by
  constructor
  · intro o s hidle ha
    have hlow : ((byteAt (emitFrame o) 16).toNat : Int) = o.payloadLength % 256 := lengthOf_emitFrame ha.1
    obtain ⟨-, -, -, -, -, -, -, -, -, h17⟩ := getElem?_emitFrame o
    have ⟨⟨_, _, _, ⟨hlen0, _⟩, _, _⟩, _⟩ := ha
    refine ⟨emitFrame o, _, 0, runBuild_of_accepted hidle ha, getElem?_emitFrame_header o (by decide), h17, hlow, rfl, ?_⟩
    have hhigh : ((0 : Byte).toNat : Int) = 0 := rfl
    rw [hlow, hhigh]
    omega
  · intro o s hidle hseq0 hseq1 hport0 hport1 hreg0 hreg1 hbad
    refine exec_build_of_buildFailure hidle ?_
    rw [buildFailure, if_neg (not_outside_of_within ⟨hseq0, hseq1⟩), if_neg (not_outside_of_within ⟨hport0, hport1⟩),
      if_neg (not_outside_of_within ⟨hreg0, hreg1⟩), if_pos hbad]

/-! ### The payload -/

/-- The first 18 bytes of a frame are its header (R46). -/
theorem take_emitFrame_header (o : BuildOperands) : (emitFrame o).take 18 = emitHeader o := by
  rw [emitFrame_split, List.take_left' (length_emitHeader o)]

/-- What follows the header is the payload and the checksum (R81, R82). -/
theorem drop_emitFrame_header (o : BuildOperands) :
    (emitFrame o).drop 18 = o.payload.map byteOfInt ++ [lowByte (checksum (bodyOf o)), highByte (checksum (bodyOf o))] := by
  rw [emitFrame_split, List.drop_left' (length_emitHeader o)]

/-- Checked payload bytes survive the trip into the frame. -/
theorem map_toNat_byteOfInt {p : List Int} (h : ∀ b ∈ p, Within 0 255 b) :
    (p.map byteOfInt).map (fun b => (b.toNat : Int)) = p := by
  rw [List.map_map]
  exact (List.map_congr_left fun b hb => toNat_byteOfInt (h b hb)).trans (List.map_id p)

/-- Settles O12: the header does not read the payload. -/
theorem declaredLengthIsNotComparedWithThePayload : Obligations.DeclaredLengthIsNotComparedWithThePayload := by
  intro o other s hidle ha hmax hpay
  have ⟨⟨hseq, hport, hreg, hlen, _, hack⟩, _⟩ := ha
  have ha' : ({ o with payload := other } : BuildOperands).Accepted s.params.pmax :=
    ⟨⟨hseq, hport, hreg, hlen, hpay, hack⟩, hmax⟩
  refine ⟨_, _, runBuild_of_accepted hidle ha, runBuild_of_accepted hidle ha', ?_, length_emitFrame _⟩
  rw [take_emitFrame_header, take_emitFrame_header]
  rfl

/-- Settles O13: the payload's bytes stand between header and checksum, and its check comes after those of the header's operands but
for the acknowledgement flag. -/
theorem payloadBytesFollowTheHeader : Obligations.PayloadBytesFollowTheHeader := by
  constructor
  · intro o s hidle ha
    have ⟨⟨_, _, _, _, hpay, _⟩, _⟩ := ha
    exact ⟨emitFrame o, _, _, _, runBuild_of_accepted hidle ha, drop_emitFrame_header o, map_toNat_byteOfInt hpay⟩
  · intro o s bad hidle ha hbad
    obtain ⟨⟨hseq, hport, hreg, hlen, -, -⟩, -⟩ := ha
    refine exec_build_of_buildFailure hidle ?_
    rw [buildFailure, if_neg (not_outside_of_within hseq), if_neg (not_outside_of_within hport),
      if_neg (not_outside_of_within hreg), if_neg (not_outside_of_within hlen), if_pos hbad]

end Sys2Proof.Machine
end

section
/-! PROOF. The checksum (R82 to R89): S of a frame's body in closed form and its bounds, the wrapping accumulator, the two trailing
bytes of a frame, and the changes of a frame that C does not see. -/

namespace Sys2Proof.Machine

open Sys2Proof.Claims

/-! ### The sum from offset 3 on -/

/-- The claims' sum from offset 3 on is S (R83). -/
theorem sumFrom3_eq (F : List Byte) : sumFrom3 F = checksumSum F := (byteSum_eq_sum _).symm

/-- So is the sum over the literal body of a frame. -/
theorem sumFrom3_bodyBytes {o : BuildOperands} (h : o.Fits) : sumFrom3 (bodyBytes o) = checksumSum (bodyOf o) := by
  rw [bodyBytes_eq h, sumFrom3_eq]

/-- So is the sum over offsets 3 to 17 + N of an emission (R84). -/
theorem sumFrom3_take_emitFrame (o : BuildOperands) :
    sumFrom3 ((emitFrame o).take (18 + o.payload.length)) = checksumSum (bodyOf o) := by
  rw [take_emitFrame, sumFrom3_eq]

/-- The three bytes before offset 3 are no part of S (R84). -/
theorem checksumSum_append {head : List Byte} (h : head.length = 3) (body : List Byte) :
    checksumSum (head ++ body) = byteSum body := by
  rw [checksumSum, checksumStart, List.drop_left' h]

/-- Bytes of equal sum after any three bytes have the same C (R89). -/
theorem checksum_append_congr {head head' body body' : List Byte} (h : head.length = 3) (h' : head'.length = 3)
    (hsum : byteSum body = byteSum body') : checksum (head ++ body) = checksum (head' ++ body') := by
  rw [checksum, checksum, checksumSum_append h, checksumSum_append h', hsum]

/-! ### The closed form of S -/

/-- What byte i of an emitted register address holds (R78). -/
theorem toNat_addressByte {r : Int} (h : 0 ≤ r) (i : Nat) : ((addressByte r i).toNat : Int) = r / 2 ^ (8 * i) % 256 := by
  rw [addressByte_eq r i h]
  exact toNat_byteOfInt ⟨by omega, by omega⟩

/-- What the low byte of an emitted data length holds (R79). -/
theorem toNat_lengthLow {r : Int} (h : 0 ≤ r) : ((lengthLow r).toNat : Int) = r % 256 := by
  rw [lengthLow_eq r h]
  exact toNat_byteOfInt ⟨by omega, by omega⟩

/-- The sum of the four bytes of a 32-bit register address (R87). -/
def addressSum (r : Int) : Int := r % 256 + r / 0x100 % 256 + r / 0x10000 % 256 + r / 0x1000000

/-- It is what the four emitted bytes of the address hold (R78). -/
theorem addressSum_eq {r : Int} (h : Within 0 0xFFFFFFFF r) :
    addressSum r = (addressByte r 0).toNat + (addressByte r 1).toNat + (addressByte r 2).toNat + (addressByte r 3).toNat := by
  obtain ⟨h0, h1⟩ := h
  simp only [toNat_addressByte h0, addressSum]
  omega

theorem within_addressSum {r : Int} (h : Within 0 0xFFFFFFFF r) : Within 0 1020 (addressSum r) := by
  obtain ⟨h0, h1⟩ := h
  simp only [Within, addressSum]
  omega

/-- S of the header (R87). -/
theorem byteSum_header {o : BuildOperands} (h : o.Fits) :
    (byteSum ((emitHeader o).drop 3) : Int) =
      0xFF + (if o.isCommand then 0x1FE else 0) + (if o.isWrite then 1 else 0) + o.sequence + (o.port - 1) +
        addressSum o.registerAddress + o.payloadLength % 256 := by
  obtain ⟨hseq, ⟨hport0, hport1⟩, hreg, ⟨hlen, -⟩, -, -⟩ := h
  have hseq := toNat_byteOfInt hseq
  have hport : ((portIndex o.port).toNat : Int) = o.port - 1 := toNat_byteOfInt ⟨by omega, by omega⟩
  have hlen := toNat_lengthLow hlen
  rw [emitHeader_eq, lengthHigh_eq, addressSum_eq hreg]
  simp only [List.drop_succ_cons, List.drop_zero, byteSum_cons, byteSum_nil]
  cases o.isCommand <;> cases o.isWrite <;> simp <;> omega

/-- S of a frame's body in closed form (R87). -/
theorem checksumSum_closedForm {o : BuildOperands} (h : o.Fits) :
    (checksumSum (bodyOf o) : Int) =
      0xFF + (if o.isCommand then 0x1FE else 0) + (if o.isWrite then 1 else 0) + o.sequence + (o.port - 1) +
        addressSum o.registerAddress + o.payloadLength % 256 + o.payload.sum := by
  have ⟨_, _, _, _, hpay, _⟩ := h
  rw [checksumSum_bodyOf, Nat.cast_add, byteSum_header h, byteSum_payload _ hpay]

/-- The payload adds at most 255·N to S (R86). -/
theorem within_payload_sum {p : List Int} (h : ∀ b ∈ p, Within 0 255 b) : Within 0 (255 * p.length) p.sum := by
  have hle := byteSum_le (p.map byteOfInt)
  rw [List.length_map] at hle
  rw [← byteSum_payload p h]
  exact ⟨by omega, by omega⟩

/-- The bounds of S (R83, R86). -/
theorem checksumSum_bounds {o : BuildOperands} (h : o.Fits) :
    0xFF ≤ checksumSum (bodyOf o) ∧ checksumSum (bodyOf o) ≤ 2551 + 255 * o.payload.length := by
  have hform := checksumSum_closedForm h
  obtain ⟨hseq, hport, hreg, -, hpay, -⟩ := h
  have haddr := within_addressSum hreg
  have hsum := within_payload_sum hpay
  simp only [Within] at *
  constructor <;> split_ifs at hform <;> omega

/-- T passes 0xFFFF only for N ≥ 162 (R83, R86). -/
theorem length_of_bias_overflow {o : BuildOperands} (h : o.Fits) (hT : 0xFFFF < checksumSum (bodyOf o) + 0x5555) :
    162 ≤ o.payload.length := by
  obtain ⟨-, hle⟩ := checksumSum_bounds h
  omega

/-- Settles O14: CHECKSUM delivers `checksum F`, and the bodies' bounds are those of S. -/
theorem checksumIsTheBiasedSumMod65536 : Obligations.ChecksumIsTheBiasedSumMod65536 := by
  refine ⟨fun F s => ⟨checksum F, rfl, ?_⟩, fun o h => ?_, by decide⟩
  · rw [← checksumOf_eq]
    rfl
  · obtain ⟨hge, -⟩ := checksumSum_bounds h
    rw [sumFrom3_bodyBytes h]
    exact ⟨by omega, length_of_bias_overflow h⟩

/-! ### The checksum of a client command's frame -/

/-- T of a client command's frame is C, with no reduction (R86, R87). -/
theorem biasedSum_clientFrame {reg v : Int} {s : State} (h : (clientOperands reg v s).Fits) :
    sumFrom3 ((emitFrame (clientOperands reg v s)).take 19) + 0x5555 =
      (checksum (bodyOf (clientOperands reg v s))).toNat := by
  have hsum : sumFrom3 ((emitFrame (clientOperands reg v s)).take 19) = checksumSum (bodyOf (clientOperands reg v s)) :=
    sumFrom3_take_emitFrame (clientOperands reg v s)
  have hle : checksumSum (bodyOf (clientOperands reg v s)) ≤ 2551 + 255 * 1 := (checksumSum_bounds h).2
  rw [hsum, toNat_checksum, bias, Nat.mod_eq_of_lt (by omega)]

/-- C by the register's bytes, SEQ, PORT and the value written (R87). -/
theorem toNat_checksum_clientFrame_closedForm {reg v : Int} {s : State} (h : (clientOperands reg v s).Fits) :
    ((checksum (bodyOf (clientOperands reg v s))).toNat : Int) =
      0x5854 + addressSum reg + s.seq.toNat + (s.port - 1) + v := by
  obtain ⟨-, hport, hreg, -, hpay, -⟩ := h
  have haddr : addressSum reg = _ := addressSum_eq hreg
  rw [toNat_checksum_clientFrame hport (hpay v (List.mem_singleton_self v)), haddr]

theorem addressSum_brightnessRegister : addressSum brightnessRegister = 3 := by decide

theorem addressSum_patternRegister : addressSum patternRegister = 4 := by decide

/-! ### The wrapping accumulator -/

/-- The accumulator that starts at the bias computes C (R86). -/
theorem wrappingChecksum_eq (F : List Byte) : wrappingChecksum F = checksum F := by
  rw [wrappingChecksum, wrappingSum_eq, checksum, checksumSum, Nat.add_comm, BitVec.ofNat_add]

/-- The accumulator that starts at 0 computes C once the bias is added (R86). -/
theorem wrappingSum_add_bias (F : List Byte) : wrappingSum 0 (F.drop 3) + 0x5555 = checksum F := by
  rw [wrappingSum_eq, checksum, BitVec.ofNat_add]
  exact congrArg (· + _) (BitVec.zero_add _)

/-- Settles O16: the accumulator adds modulo 65536, the sum does not depend on the order, and the bounds follow from the closed form
of S. -/
theorem wrappingAccumulatorComputesTheSameChecksum : Obligations.WrappingAccumulatorComputesTheSameChecksum := by
  refine ⟨fun F => ⟨wrappingChecksum_eq F, wrappingSum_add_bias F⟩, fun head body body' hlen hperm => ?_, fun o h => ?_,
    fun i v s t h _ he hh => ?_⟩
  · rw [wrappingChecksum_eq]
    exact checksum_append_congr hlen hlen (byteSum_perm hperm).symm
  · obtain ⟨-, hle⟩ := checksumSum_bounds h
    rw [sumFrom3_bodyBytes h]
    exact ⟨hle, by omega, length_of_bias_overflow h⟩
  · obtain ⟨reg, w, hcmd, -, -, ha, rfl, -⟩ := exec_hands_over he hh
    obtain ⟨-, hport⟩ := port_within_of_accepted ha
    have hseq : s.seq.toNat < 2 ^ 8 := s.seq.isLt
    have hC := toNat_checksum_clientFrame_closedForm ha.1
    have hT := biasedSum_clientFrame ha.1
    show sumFrom3 ((emitFrame (clientOperands reg w s)).take 19) + 0x5555 ≤ 0x5B54
    rcases hcmd with ⟨-, rfl, -, hv⟩ | ⟨-, rfl, -, hv⟩
    · rw [addressSum_brightnessRegister] at hC
      omega
    · rw [addressSum_patternRegister] at hC
      omega

/-! ### The two checksum bytes of a frame -/

/-- A frame ends in the two bytes of its body's C (R82). -/
theorem drop_emitFrame_checksum (o : BuildOperands) :
    (emitFrame o).drop (18 + o.payload.length) = [lowByte (checksum (bodyOf o)), highByte (checksum (bodyOf o))] := by
  rw [emitFrame_eq, List.drop_left' (length_bodyOf o)]

/-- They stand at offsets 18 + N and 19 + N (R82). -/
theorem getElem?_emitFrame_checksum (o : BuildOperands) :
    (emitFrame o)[18 + o.payload.length]? = some (lowByte (checksum (bodyOf o))) ∧
      (emitFrame o)[19 + o.payload.length]? = some (highByte (checksum (bodyOf o))) := by
  have hdrop (k : Nat) := congrArg (·[k]?) (drop_emitFrame_checksum o)
  simp only [List.getElem?_drop] at hdrop
  exact ⟨hdrop 0, by rw [show 19 + o.payload.length = 18 + o.payload.length + 1 by omega]; exact hdrop 1⟩

/-- Read little-endian they are C (R82). -/
theorem emitFrame_ends_in_checksum (o : BuildOperands) :
    ∃ c₀ c₁ : Byte, (emitFrame o)[18 + o.payload.length]? = some c₀ ∧ (emitFrame o)[19 + o.payload.length]? = some c₁ ∧
      c₀.toNat + 256 * c₁.toNat = (checksum (bodyOf o)).toNat := by
  obtain ⟨hlow, hhigh⟩ := getElem?_emitFrame_checksum o
  exact ⟨_, _, hlow, hhigh, lowByte_highByte _⟩

/-- A client command's frame ends in C at offsets 19 and 20, by its closed form (R87, R95). -/
theorem clientFrame_ends_in_checksum {reg v : Int} {s : State} (h : (clientOperands reg v s).Fits) :
    ∃ c₀ c₁ : Byte, (emitFrame (clientOperands reg v s))[19]? = some c₀ ∧
      (emitFrame (clientOperands reg v s))[20]? = some c₁ ∧
      (c₀.toNat + 256 * c₁.toNat : Int) = 0x5854 + addressSum reg + s.seq.toNat + (s.port - 1) + v := by
  obtain ⟨c₀, c₁, h₀, h₁, hbytes⟩ := emitFrame_ends_in_checksum (clientOperands reg v s)
  refine ⟨c₀, c₁, h₀, h₁, ?_⟩
  rw [← toNat_checksum_clientFrame_closedForm h, ← hbytes]
  push_cast
  rfl

/-- Settles O15: the bytes are C's, and C is T modulo 65536. -/
theorem checksumBytesAreTheLowSixteenBits : Obligations.ChecksumBytesAreTheLowSixteenBits := by
  intro o s hidle ha
  obtain ⟨hlow, hhigh⟩ := getElem?_emitFrame_checksum o
  refine ⟨emitFrame o, _, _, runBuild_of_accepted hidle ha, hlow, hhigh, ?_⟩
  rw [sumFrom3_take_emitFrame, toNat_lowByte, toNat_highByte, toNat_checksum, bias]
  omega

/-- Settles O17: the closed form of S, and for a client command that of C. -/
theorem checksumHasTheClosedForm : Obligations.ChecksumHasTheClosedForm := by
  refine ⟨fun o s hidle ha => ⟨emitFrame o, runBuild_of_accepted hidle ha, ?_⟩, ?_, ?_⟩
  · rintro r rfl
    have hform := checksumSum_closedForm ha.1
    rw [sumFrom3_take_emitFrame]
    refine ⟨hform, fun hc hw => ?_⟩
    obtain ⟨c₀, c₁, h₀, h₁, hbytes⟩ := emitFrame_ends_in_checksum o
    refine ⟨c₀, c₁, h₀, h₁, ?_⟩
    rw [toNat_checksum, bias] at hbytes
    simp only [hc, hw, if_true, addressSum] at hform
    omega
  · intro level s t h he hh
    obtain ⟨reg, v, hcmd, -, -, ⟨hfits, -⟩, rfl, -⟩ := exec_hands_over he hh
    rcases hcmd with ⟨heq, rfl, -⟩ | ⟨heq, -, -⟩ <;> cases heq
    obtain ⟨c₀, c₁, h₀, h₁, hbytes⟩ := clientFrame_ends_in_checksum hfits
    rw [addressSum_brightnessRegister] at hbytes
    exact ⟨c₀, c₁, h₀, h₁, by omega⟩
  · intro code s t h he hh
    obtain ⟨reg, v, hcmd, -, -, ⟨hfits, -⟩, rfl, -⟩ := exec_hands_over he hh
    rcases hcmd with ⟨heq, -, -⟩ | ⟨heq, rfl, -⟩ <;> cases heq
    obtain ⟨c₀, c₁, h₀, h₁, hbytes⟩ := clientFrame_ends_in_checksum hfits
    rw [addressSum_patternRegister] at hbytes
    exact ⟨c₀, c₁, h₀, h₁, by omega⟩

/-- The round trip on an emission (R88). -/
theorem checksum_roundTrip_emitFrame (o : BuildOperands) :
    2 ≤ (emitFrame o).length ∧ ∃ c₀ c₁ : Byte, (emitFrame o)[(emitFrame o).length - 2]? = some c₀ ∧
      (emitFrame o)[(emitFrame o).length - 1]? = some c₁ ∧
      (sumFrom3 ((emitFrame o).take ((emitFrame o).length - 2)) + 0x5555) % 65536 = c₀.toNat + 256 * c₁.toNat := by
  have hlen := length_emitFrame o
  have hlow : (emitFrame o).length - 2 = 18 + o.payload.length := by omega
  have hhigh : (emitFrame o).length - 1 = 19 + o.payload.length := by omega
  obtain ⟨c₀, c₁, h₀, h₁, hbytes⟩ := emitFrame_ends_in_checksum o
  rw [hlow, hhigh, sumFrom3_take_emitFrame, ← bias, ← toNat_checksum]
  exact ⟨by omega, c₀, c₁, h₀, h₁, hbytes.symm⟩

/-- Settles O18: every frame delivered or handed over is an emission. -/
theorem checksumRoundTripsOnEveryFrame : Obligations.ChecksumRoundTripsOnEveryFrame := by
  constructor
  · intro i s t F he hd
    obtain ⟨o, rfl⟩ := eq_emitFrame_of_exec he (.inl hd)
    exact checksum_roundTrip_emitFrame o
  · intro i s t h he hh
    obtain ⟨o, ho⟩ := eq_emitFrame_of_exec he (.inr ⟨h, hh, rfl⟩)
    rw [ho]
    exact checksum_roundTrip_emitFrame o

/-! ### What C does not see -/

/-- Operands stay accepted when the payload is reordered (R51). -/
theorem accepted_of_payload_perm {pmax : Nat} {o : BuildOperands} {other : List Int} (h : o.Accepted pmax)
    (hperm : o.payload.Perm other) : ({ o with payload := other } : BuildOperands).Accepted pmax := by
  obtain ⟨⟨hseq, hport, hreg, hlen, hpay, hack⟩, hmax⟩ := h
  exact ⟨⟨hseq, hport, hreg, hlen, fun b hb => hpay b (hperm.mem_iff.2 hb), hack⟩, hperm.length_eq ▸ hmax⟩

/-- Reordering the payload keeps C (R89). -/
theorem checksum_of_payload_perm {o : BuildOperands} {other : List Int} (hperm : o.payload.Perm other) :
    checksum (bodyOf { o with payload := other }) = checksum (bodyOf o) := by
  have hheader : emitHeader { o with payload := other } = emitHeader o := rfl
  rw [checksum, checksum, checksumSum_bodyOf, checksumSum_bodyOf, hheader, byteSum_perm (hperm.map byteOfInt)]

/-- Settles O19: C reads the bytes from offset 3 on, and these by their sum alone. -/
theorem checksumIsBlindToOrderAndToTheFirstThreeBytes : Obligations.ChecksumIsBlindToOrderAndToTheFirstThreeBytes := by
  constructor
  · intro o other s hidle ha hperm
    have ha' := accepted_of_payload_perm ha hperm
    refine ⟨_, _, runBuild_of_accepted hidle ha, runBuild_of_accepted hidle ha', ?_⟩
    have hdrop := drop_emitFrame_checksum { o with payload := other }
    rw [checksum_of_payload_perm hperm, ← hperm.length_eq] at hdrop
    rw [hdrop, drop_emitFrame_checksum]
  · rintro head head' body body' h h' (hperm | hsum)
    · exact checksum_append_congr h h' (byteSum_perm hperm)
    · exact checksum_append_congr h h' (by rw [byteSum_eq_sum, byteSum_eq_sum, hsum])

end Sys2Proof.Machine
end

section
/-! PROOF. The client register layer (R91 to R96): SETBRT and SHOWPAT as whole next states, SEQ written by SeqUpdate alone, and
CONSTRUCT first and once. -/

namespace Sys2Proof.Machine

open Sys2Proof.Claims

/-! ### The whole next state of a write and its return -/

/-- A write answered Ok, every field written out (R92, R93, R94). -/
theorem transportReturn_transportWrite_eq_of_returned {s : State} {n : Nat} {rest : List TransportReply}
    (hidle : s.phase = .idle) (hr : s.replies = .returned n :: rest) (F : List Byte) :
    transportReturn (transportWrite F s) =
      { s with seq := nextSeq s, replies := rest, handed := s.handed ++ [⟨s.transport, F⟩]
               delivered := s.delivered ++ [.ok] } := by
  rw [transportReturn_transportWrite_of_returned hidle hr, State.afterRun, List.length_singleton, State.seqAfter_one]
  rfl

/-- A write that fails: the frame is handed over, SEQ is not updated, and the transport's error ends the command (R102). -/
theorem transportReturn_transportWrite_eq_of_failed {s : State} {e : Nat} {rest : List TransportReply}
    (hidle : s.phase = .idle) (hr : s.replies = .failed e :: rest) (F : List Byte) :
    transportReturn (transportWrite F s) =
      { s with replies := rest, handed := s.handed ++ [⟨s.transport, F⟩]
               delivered := s.delivered ++ [.transportError e] } := by
  simp [transportReturn, hr, raiseTransport, deliver, endWrite, transportWrite, hidle]

/-! ### The literal frames -/

/-- The frame SETBRT hands over is that of R92. -/
theorem emitFrame_setbrt {v : Int} {s : State} (h : (clientOperands brightnessRegister v s).Fits) :
    emitFrame (clientOperands brightnessRegister v s) = setbrtBytes s.seq s.port v := by
  have hc : ((checksum (bodyOf (clientOperands brightnessRegister v s))).toNat : Int) =
      0x5857 + s.seq.toNat + (s.port - 1) + v := by
    rw [toNat_checksum_clientFrame_closedForm h, addressSum_brightnessRegister]
    rfl
  have hseq : BitVec.ofInt 8 (intOfByte s.seq) = s.seq := byteOfInt_intOfByte s.seq
  rw [emitFrame_split, checksumBytes_of_toNat hc, ← headerBytes_eq h]
  simp [headerBytes, setbrtBytes, clientOperands, brightnessRegister, hseq, byteOfInt]

/-- SETBRT of a level 0 to 255 on a ready block writes the frame of R92. -/
theorem exec_setbrt_of_ready {v : Int} {s : State} (hs : Ready s) (hv : Within 0 255 v) :
    exec (.setbrt v) s = .next (transportReturn (transportWrite (setbrtBytes s.seq s.port v) s)) := by
  have ha : (clientOperands brightnessRegister v s).Accepted s.params.pmax :=
    clientOperands_accepted (by decide) hv hs.port_legal hs.pmax_legal
  rw [← emitFrame_setbrt ha.1]
  exact runClient_of_ready hs (outside_eq_false.2 hv) (by decide) hv

/-- SHOWPAT of a code 1 to 9 on a ready block writes the frame of R93. -/
theorem exec_showpat_of_ready {v : Int} {s : State} (hs : Ready s) (hv : Within 1 9 v) :
    exec (.showpat v) s = .next (transportReturn (transportWrite (showpatBytes s.seq s.port v) s)) := by
  have hbyte : Within 0 255 v := by simp only [Within] at *; omega
  rw [← emitFrame_showpat hs.port_legal hv]
  exact runClient_of_ready hs (outside_eq_false.2 hv) (by decide) hbyte

/-! ### The validation errors of a client command -/

/-- A client command whose own check fails raises that error and writes nothing (R92, R93, R104). -/
theorem runClient_of_own_check {own : RangeCheck} {s : State} (hidle : s.phase = .idle) (hc : s.constructed = true)
    (hbad : own.2 = true) (reg v : Int) : runClient own reg v s = .next (raiseValidation own.1 s) :=
  runClient_eq_next.2 ⟨hidle, hc, .inl ⟨hbad, rfl⟩⟩

/-- With PORT out of range BUILD's port check is the first to fail, because SEQ always fits (R100). -/
theorem validateBuild_clientOperands_of_illegal_port {s : State} (hp : s.port < 1 ∨ 256 < s.port) (reg v : Int) :
    validateBuild s.params.pmax (clientOperands reg v s) = some .port := by
  have hseq := not_outside_of_within (within_intOfByte s.seq)
  rw [validateBuild_eq_buildFailure]
  exact (if_neg hseq).trans (if_pos hp)

/-- A client command that passes its own check ends with that error (R92, R93). -/
theorem runClient_of_illegal_port {own : RangeCheck} {s : State} (hidle : s.phase = .idle) (hc : s.constructed = true)
    (hok : own.2 = false) (hp : s.port < 1 ∨ 256 < s.port) (reg v : Int) :
    runClient own reg v s = .next (raiseValidation .port s) :=
  runClient_eq_next.2
    ⟨hidle, hc, .inr ⟨hok, .inl ⟨.port, validateBuild_clientOperands_of_illegal_port hp reg v, rfl⟩⟩⟩

/-- So every legal client command on a constructed idle block with PORT out of range ends with that error (R91). -/
theorem exec_legalClient_of_illegal_port {i : Instr} {v : Int} {s : State} (hidle : s.phase = .idle)
    (hc : s.constructed = true) (hi : legalClient i v) (hp : s.port < 1 ∨ 256 < s.port) :
    exec i s = .next { s with delivered := s.delivered ++ [.validationError .port] } := by
  rcases hi with ⟨rfl, hv⟩ | ⟨rfl, hv⟩
  · exact runClient_of_illegal_port hidle hc (outside_eq_false.2 hv) hp _ v
  · exact runClient_of_illegal_port hidle hc (outside_eq_false.2 hv) hp _ v

/-- A check fails on a value below or above its range. -/
theorem outside_of_lt_or_lt {lo hi v : Int} (h : v < lo ∨ hi < v) : outside lo hi v = true := by
  simpa [outside] using h

/-- Settles O23: the frame of R92 is written and the transport's return decides; or the level's check, or the port's, raises. -/
theorem setbrtWritesTheBrightnessFrame : Obligations.SetbrtWritesTheBrightnessFrame := by
  refine ⟨fun v s n rest hs hlo hhi hr => ?_, fun v s e rest hs hlo hhi hr => ?_, fun v s hidle hc hbad => ?_,
    fun v s hidle hc hlo hhi hp => exec_legalClient_of_illegal_port hidle hc (.inl ⟨rfl, hlo, hhi⟩) hp⟩
  · rw [exec_setbrt_of_ready hs ⟨hlo, hhi⟩, transportReturn_transportWrite_eq_of_returned hs.idle hr]
  · rw [exec_setbrt_of_ready hs ⟨hlo, hhi⟩, transportReturn_transportWrite_eq_of_failed hs.idle hr]
  · exact runClient_of_own_check hidle hc (outside_of_lt_or_lt hbad) brightnessRegister v

/-- Settles O24: the frame of R93 is written and the transport's return decides; or the code's check, or the port's, raises. -/
theorem showpatWritesThePatternFrame : Obligations.ShowpatWritesThePatternFrame := by
  refine ⟨fun v s n rest hs hlo hhi hr => ?_, fun v s e rest hs hlo hhi hr => ?_, fun v s hidle hc hbad => ?_,
    fun v s hidle hc hlo hhi hp => exec_legalClient_of_illegal_port hidle hc (.inr ⟨rfl, hlo, hhi⟩) hp⟩
  · rw [exec_showpat_of_ready hs ⟨hlo, hhi⟩, transportReturn_transportWrite_eq_of_returned hs.idle hr]
  · rw [exec_showpat_of_ready hs ⟨hlo, hhi⟩, transportReturn_transportWrite_eq_of_failed hs.idle hr]
  · exact runClient_of_own_check hidle hc (outside_of_lt_or_lt hbad) patternRegister v

/-! ### SEQ -/

/-- From `s` to `t` SEQ moves as SeqUpdate does if the outcome Ok was delivered, and not at all otherwise (R94). -/
def SeqFollowsOutcome (s t : State) : Prop :=
  (t.delivered = s.delivered ++ [.ok] →
      t.seq.toNat = (if s.params.seqInc then (s.seq.toNat + 1) % 256 else s.seq.toNat)) ∧
    (t.delivered ≠ s.delivered ++ [.ok] → t.seq = s.seq)

/-- SeqUpdate on SEQ as an integer (R94). -/
theorem toNat_seqUpdate_seq (s : State) :
    (seqUpdate s).seq.toNat = (if s.params.seqInc then (s.seq.toNat + 1) % 256 else s.seq.toNat) := by
  cases h : s.params.seqInc <;> simp [h]

namespace SeqFollowsOutcome

/-- Neither SEQ nor the outcomes change. -/
theorem refl (s : State) : SeqFollowsOutcome s s := ⟨fun h => by simp at h, fun _ => rfl⟩

/-- An outcome that is no Ok leaves SEQ alone. -/
theorem deliver {o : CommandOutcome} (ho : o ≠ .ok) (s : State) : SeqFollowsOutcome s (Machine.deliver o s) :=
  ⟨fun h => by simp [ho] at h, fun _ => rfl⟩

/-- The transport's return runs SeqUpdate exactly where it delivers Ok (R92, R93, R102). -/
theorem transportReturn (s : State) : SeqFollowsOutcome s (Machine.transportReturn s) := by
  rcases transportReturn_cases s with ⟨-, hr⟩ | ⟨n, rest, -, hr⟩ | ⟨e, rest, -, hr⟩ <;> rw [hr]
  · exact refl s
  · exact ⟨fun _ => toNat_seqUpdate_seq s, fun h => absurd rfl h⟩
  · exact deliver (by simp) s

/-- Every instruction but CONSTRUCT. -/
theorem exec {i : Instr} {s t : State} (hi : ∀ p b, i ≠ .construct p b) (h : Machine.exec i s = .next t) :
    SeqFollowsOutcome s t := by
  rcases exec_cases h with ⟨o, ⟨op, -, rfl⟩, -, -, rfl⟩ | ⟨field, -, -, rfl⟩ | ⟨frame, -, rfl⟩ | ⟨p, b, hcon, -⟩ |
    ⟨reg, v, -, -, -, -, rfl⟩
  · exact deliver (by simp) s
  · exact deliver (by simp) s
  · exact deliver (by simp) s
  · exact absurd hcon (hi p b)
  · exact transportReturn (transportWrite _ s)

end SeqFollowsOutcome

/-- An instruction that a constructed block runs is not CONSTRUCT (R96, R116). -/
theorem ne_construct_of_constructed {i : Instr} {s t : State} (hc : s.constructed = true) (h : exec i s = .next t)
    (p : Int) (b : Nat) : i ≠ .construct p b := by
  rintro rfl
  obtain ⟨-, hnot, -⟩ := execConstruct_eq_next.1 h
  simp [hc] at hnot

/-- A frame handed over carries the SEQ from before the command (R61, R70, R94). -/
theorem handed_carries_seq {i : Instr} {s t : State} {h : Handed} (he : exec i s = .next t)
    (hh : t.handed = s.handed ++ [h]) : h.frame[3]? = some s.seq := by
  obtain ⟨reg, v, -, -, -, -, rfl, -⟩ := exec_hands_over he hh
  obtain ⟨-, -, hseq⟩ := carriesValue_clientFrame reg v s
  exact hseq

/-- Settles O28: a step is the transport's return, nothing, or a command that is not CONSTRUCT. -/
theorem onlySeqUpdateWritesSeq : Obligations.OnlySeqUpdateWritesSeq := by
  constructor
  · intro i s t hi he
    obtain ⟨hok, hother⟩ := SeqFollowsOutcome.exec hi he
    exact ⟨hok, hother, fun h hh => handed_carries_seq he hh⟩
  · intro s t hc h
    rcases step_cases h with ⟨-, rfl⟩ | ⟨-, -, rfl⟩ | ⟨i, rest, -, -, -, he⟩
    · exact SeqFollowsOutcome.transportReturn s
    · exact SeqFollowsOutcome.refl _
    · have hi := ne_construct_of_constructed (s := s.takeCommand rest) hc he
      exact SeqFollowsOutcome.exec (s := s.takeCommand rest) hi he

/-! ### CONSTRUCT -/

/-- Settles O30: CONSTRUCT leaves an idle constructed block whose PORT is PORT_INIT. -/
theorem constructSetsPortAndClearsSeq : Obligations.ConstructSetsPortAndClearsSeq := by
  constructor
  · intro p b s hidle hc
    exact execConstruct_eq_next.2 ⟨hidle, hc, rfl⟩
  · intro p b s t i v h hp hi
    obtain ⟨hidle, -, rfl⟩ := execConstruct_eq_next.1 h
    exact exec_legalClient_of_illegal_port hidle rfl hi hp

/-- A client command before CONSTRUCT is refused (R96). -/
theorem runClient_of_not_constructed {s : State} (hidle : s.phase = .idle) (hc : s.constructed = false)
    (own : RangeCheck) (reg v : Int) : runClient own reg v s = .refused .notConstructed := by
  rw [runClient, whenIdle_idle hidle, whenConstructed, hc]

/-- A second CONSTRUCT is refused (R116, U13). -/
theorem execConstruct_of_constructed {s : State} (hidle : s.phase = .idle) (hc : s.constructed = true) (p : Int)
    (b : Nat) : execConstruct p b s = .refused .alreadyConstructed := by
  rw [execConstruct, whenIdle_idle hidle, hc]

/-- Settles O31. -/
theorem constructIsFirstAndOnce : Obligations.ConstructIsFirstAndOnce := by
  refine ⟨fun p b s hidle hc => execConstruct_of_constructed hidle hc p b, ?_⟩
  rintro i s (⟨v, rfl⟩ | ⟨v, rfl⟩) hidle hc
  · exact runClient_of_not_constructed hidle hc _ _ v
  · exact runClient_of_not_constructed hidle hc _ _ v

end Sys2Proof.Machine
end

section
/-! PROOF. Exceptions (R98 to R105): the range checks in the order of their table, what an error leaves unchanged, the transport's error
passed on, and a constructed block that is ready for the next command after any outcome. -/

namespace Sys2Proof.Machine

open Sys2Proof.Claims

/-! ### The range checks -/

/-- BUILD with no condition of the table raised has accepted operands (R51, R100). -/
theorem accepted_of_buildFailure_eq_none {pmax : Nat} {o : BuildOperands} (h : buildFailure pmax o = none) :
    o.Accepted pmax :=
  validateBuild_eq_none.1 ((validateBuild_eq_buildFailure pmax o).trans h)

/-- Settles O20: BUILD's checks are the table's conditions, and those of the client commands are in their rules. -/
theorem rangeChecksRaiseInTableOrder : Obligations.RangeChecksRaiseInTableOrder := by
  obtain ⟨-, -, hlevel, hlevelPort⟩ := setbrtWritesTheBrightnessFrame
  obtain ⟨-, -, hcode, hcodePort⟩ := showpatWritesThePatternFrame
  refine ⟨fun o s f hidle hf => ?_, fun o s hidle hnone => ?_, hlevel, hlevelPort, hcode, hcodePort, rfl⟩
  · have hrun := exec_build_of_buildFailure hidle hf
    exact ⟨hrun, (exec_shape o s).trans hrun⟩
  · have hrun := runBuild_of_accepted hidle (accepted_of_buildFailure_eq_none hnone)
    exact ⟨emitFrame o, hrun, (exec_shape o s).trans hrun⟩

/-! ### What an error leaves unchanged -/

/-- An instruction that ends with a validation error has done nothing but raise it (R104). -/
theorem eq_raiseValidation_of_exec {i : Instr} {s t : State} {f : Field} (h : exec i s = .next t)
    (hd : t.delivered = s.delivered ++ [.validationError f]) : t = raiseValidation f s := by
  rcases exec_cases h with ⟨o, ⟨op, -, rfl⟩, -, -, rfl⟩ | ⟨field, -, -, rfl⟩ | ⟨frame, -, rfl⟩ | ⟨p, b, -, -, -, rfl⟩ |
    ⟨reg, v, -, -, -, -, rfl⟩
  · simp at hd
  · obtain rfl : field = f := by simpa using hd
    rfl
  · simp at hd
  · simp at hd
  · exact absurd hd (transportReturn_no_validationError _ f)

/-- The transport's return delivers a transport error only where the write signalled that failure (R102). -/
theorem replies_of_transportReturn_delivers_error {s : State} {e : Nat}
    (hd : (transportReturn s).delivered = s.delivered ++ [.transportError e]) :
    ∃ rest, s.replies = .failed e :: rest ∧ transportReturn s = raiseTransport e (endWrite rest s) := by
  rcases transportReturn_cases s with ⟨-, hr⟩ | ⟨n, rest, -, hr⟩ | ⟨e', rest, hq, hr⟩
  · simp [hr] at hd
  · simp [hr] at hd
  · obtain rfl : e' = e := by simpa [hr] using hd
    exact ⟨rest, hq, hr⟩

/-- An instruction that ends with a transport error has handed over one 21-byte frame, whose write signalled that failure, and done
nothing else (R102, R104). -/
theorem eq_failedWrite_of_exec {i : Instr} {s t : State} {e : Nat} (h : exec i s = .next t)
    (hd : t.delivered = s.delivered ++ [.transportError e]) :
    ∃ (F : List Byte) (rest : List TransportReply), F.length = 21 ∧ s.replies = .failed e :: rest ∧
      t = { s with replies := rest, handed := s.handed ++ [⟨s.transport, F⟩]
                   delivered := s.delivered ++ [.transportError e] } := by
  rcases exec_cases h with ⟨o, ⟨op, -, rfl⟩, -, -, rfl⟩ | ⟨field, -, -, rfl⟩ | ⟨frame, -, rfl⟩ | ⟨p, b, -, -, -, rfl⟩ |
    ⟨reg, v, -, hidle, -, -, rfl⟩
  · simp at hd
  · simp at hd
  · simp at hd
  · simp at hd
  · obtain ⟨rest, hq, -⟩ := replies_of_transportReturn_delivers_error hd
    exact ⟨_, rest, length_emitFrame _, hq, transportReturn_transportWrite_eq_of_failed hidle hq _⟩

/-- A step of a block in a write is the transport's return (R106, R121). -/
theorem step_of_writing {s : State} (hw : s.phase = .writing) : step s = .next (transportReturn s) := by
  simp [step, hw]

/-- Settles O21: by what an instruction that ends with either error does, and by the transport's return in a later step. -/
theorem errorsLeaveTheRegistersAlone : Obligations.ErrorsLeaveTheRegistersAlone := by
  refine ⟨fun _ _ _ _ h hd => eq_raiseValidation_of_exec h hd, fun _ _ _ _ h hd => eq_failedWrite_of_exec h hd, ?_⟩
  intro s t e hw h hd
  obtain rfl := Host.Outcome.next.inj ((step_of_writing hw).symm.trans h)
  exact replies_of_transportReturn_delivers_error hd

/-! ### A client command by the frame the encoder gives it -/

/-- A legal client command on a ready block has a frame of 21 bytes, which SEQ and PORT determine (R61, R95). -/
theorem exists_encodeWith_of_legalClient {i : Instr} {v : Int} {s : State} (hs : Ready s) (hi : legalClient i v) :
    ∃ F, F.length = 21 ∧ encodeWith s.seq s.port i = some F := by
  obtain ⟨reg, -, -, henc, -⟩ := legalClient_emits hs hi
  exact ⟨_, length_emitFrame _, henc⟩

/-- That frame is the one the command hands over (R92, R93). -/
theorem exec_of_encodeWith {i : Instr} {v : Int} {s : State} {F : List Byte} (hs : Ready s) (hi : legalClient i v)
    (hF : encodeWith s.seq s.port i = some F) : exec i s = .next (transportReturn (transportWrite F s)) := by
  obtain ⟨reg, -, -, henc, he⟩ := legalClient_emits hs hi
  obtain rfl := Option.some.inj (henc.symm.trans hF)
  exact he

/-- Whether a block is ready does not depend on what the transport will return. -/
theorem ready_withReplies {s : State} (hs : Ready s) (replies : List TransportReply) :
    Ready { s with replies := replies } :=
  ⟨hs.idle, hs.constructed, hs.port_legal, hs.pmax_legal⟩

/-! ### Errors are not sticky -/

/-- An error leaves a ready block ready, with SEQ and PORT as they were (R104, R105). -/
theorem ready_after_error {i : Instr} {s t : State} {o : CommandOutcome} (hs : Ready s) (h : exec i s = .next t)
    (hd : t.delivered = s.delivered ++ [o]) (ho : (∃ f, o = .validationError f) ∨ ∃ e, o = .transportError e) :
    Ready t ∧ t.seq = s.seq ∧ t.port = s.port := by
  obtain ⟨hidle, hc, hport, hmax⟩ := hs
  rcases ho with ⟨f, rfl⟩ | ⟨e, rfl⟩
  · obtain rfl := eq_raiseValidation_of_exec h hd
    exact ⟨⟨hidle, hc, hport, hmax⟩, rfl, rfl⟩
  · obtain ⟨F, rest, -, -, rfl⟩ := eq_failedWrite_of_exec h hd
    exact ⟨⟨hidle, hc, hport, hmax⟩, rfl, rfl⟩

/-- Settles O22: the block is ready again, and SEQ and PORT, which determine a client command's frame, are those of before. -/
theorem aCommandAfterAnErrorCanSucceed : Obligations.ACommandAfterAnErrorCanSucceed := by
  intro i j v n s t o hs he hd ho hj
  obtain ⟨ht, hseq, hport⟩ := ready_after_error hs he hd ho
  have hanswered := ready_withReplies ht [.returned n]
  obtain ⟨F, -, hF⟩ := exists_encodeWith_of_legalClient hanswered hj
  have hretry := exec_of_encodeWith hanswered hj hF
  rw [transportReturn_transportWrite_eq_of_returned hanswered.idle rfl] at hretry
  refine ⟨_, hretry, rfl, ?_⟩
  rintro rfl -
  have hfirst := exec_of_encodeWith hs hj (F := F) (by rw [← hseq, ← hport]; exact hF)
  obtain rfl := Host.Outcome.next.inj (he.symm.trans hfirst)
  exact ⟨⟨s.transport, F⟩, handed_transportReturn_transportWrite F s, by simp⟩

/-! ### The transport's error -/

/-- BUILD delivers no transport error (R102). -/
theorem runBuild_no_transportError {o : BuildOperands} {s t : State} (h : runBuild o s = .next t) (e : Nat) :
    t.delivered ≠ s.delivered ++ [.transportError e] := by
  obtain ⟨-, ⟨-, rfl⟩ | ⟨field, -, rfl⟩⟩ := runBuild_eq_next.1 h
  · simp
  · simp

/-- Settles O25: the frame is fixed before the transport answers, and the return only chooses between Ok and the error. -/
theorem transportFailureIsPassedOnUnchanged : Obligations.TransportFailureIsPassedOnUnchanged := by
  refine ⟨?_, ?_, ?_, fun _ => rfl⟩
  · intro i v s e rest hs hi hr
    obtain ⟨F, hlen, hF⟩ := exists_encodeWith_of_legalClient hs hi
    refine ⟨F, hlen, ?_⟩
    rw [exec_of_encodeWith hs hi hF, transportReturn_transportWrite_eq_of_failed hs.idle hr]
  · intro i v s rest hs hi
    obtain ⟨F, -, hF⟩ := exists_encodeWith_of_legalClient hs hi
    refine ⟨{ s with seq := nextSeq s, replies := rest, handed := s.handed ++ [⟨s.transport, F⟩]
                     delivered := s.delivered ++ [.ok] }, rfl, fun n => ?_⟩
    have hanswered := ready_withReplies hs (.returned n :: rest)
    rw [exec_of_encodeWith hanswered hi hF, transportReturn_transportWrite_eq_of_returned hanswered.idle rfl]
    rfl
  · rintro o s t e (h | h)
    · exact runBuild_no_transportError h e
    · exact runBuild_no_transportError ((exec_shape o s).symm.trans h) e

/-! ### A constructed block never stops -/

/-- A client command on an idle constructed block answers a next state, whatever its operand (R96, R105). -/
theorem runClient_answers {s : State} (hidle : s.phase = .idle) (hc : s.constructed = true) (own : RangeCheck)
    (reg v : Int) : ∃ t, runClient own reg v s = .next t := by
  rw [runClient, whenIdle_idle hidle, whenConstructed_constructed hc]
  exact ⟨_, rfl⟩

/-- So does every command of R50 but CONSTRUCT. -/
theorem exec_answers {i : Instr} {s : State} (hidle : s.phase = .idle) (hc : s.constructed = true)
    (hi : i.presentable = true) (hcon : ∀ p b, i ≠ .construct p b) : ∃ t, exec i s = .next t := by
  cases i with
  | setbrt v => exact runClient_answers hidle hc _ _ v
  | showpat v => exact runClient_answers hidle hc _ _ v
  | construct p b => exact absurd rfl (hcon p b)
  | checksum F => cases hi
  | _ => exact ⟨_, runBuild_of_idle hidle⟩

/-- No instruction touches the commands still waiting (R41). -/
theorem exec_keeps_presented {i : Instr} {s t : State} (h : exec i s = .next t) : t.presented = s.presented := by
  rcases exec_cases h with ⟨o, -, -, -, rfl⟩ | ⟨field, -, -, rfl⟩ | ⟨frame, -, rfl⟩ | ⟨p, b, -, -, -, rfl⟩ |
    ⟨reg, v, -, -, -, -, rfl⟩
  · rfl
  · rfl
  · rfl
  · rfl
  · simp

/-- Settles O40: a step is the transport's return, nothing, or a presented command, and each answers. -/
theorem aConstructedBlockNeverStops : Obligations.AConstructedBlockNeverStops := by
  intro s hc hall
  cases hphase : s.phase with
  | writing => exact ⟨transportReturn s, step_of_writing hphase, by simp [hc], by simpa using hall⟩
  | idle =>
    cases hq : s.presented with
    | nil => exact ⟨s, step_of_none_presented hphase hq, hc, hall⟩
    | cons i rest =>
      obtain ⟨⟨hi, hcon⟩, hrest⟩ := List.forall_mem_cons.1 (hq ▸ hall)
      obtain ⟨t, he⟩ := exec_answers (s := s.takeCommand rest) hphase hc hi hcon
      obtain ⟨-, -, hct, -⟩ := exec_keeps_binding (s := s.takeCommand rest) hc he
      exact ⟨t, (step_of_presented hphase hq hi).trans he, hct, exec_keeps_presented he ▸ hrest⟩

end Sys2Proof.Machine
end

section
/-! PROOF. Hazards (R118, R121): a client command blocks until the transport's write returns, and no command runs while
another is in progress. -/

namespace Sys2Proof.Machine

open Sys2Proof.Claims

/-! ### A write that has not returned, and its return -/

/-- Without a reply the transport has not returned and nothing happens (R121, U7). -/
theorem transportReturn_of_unanswered {s : State} (hr : s.replies = []) : transportReturn s = s := by
  simp [transportReturn, hr]

/-- A step of a block whose write has not returned changes nothing: the command stays in progress (R121). -/
theorem step_of_unanswered_write {s : State} (hw : s.phase = .writing) (hr : s.replies = []) : step s = .next s := by
  rw [step_of_writing hw, transportReturn_of_unanswered hr]

/-- A step of a block whose write returned runs SeqUpdate and ends the command with Ok (R92, R93). -/
theorem step_of_returned_write {s : State} {n : Nat} {rest : List TransportReply} (hw : s.phase = .writing)
    (hr : s.replies = .returned n :: rest) : step s = .next (deliver .ok (seqUpdate (endWrite rest s))) := by
  rw [step_of_writing hw, transportReturn, hr]

/-- A step of a block whose write failed ends the command with the transport's error (R102). -/
theorem step_of_failed_write {s : State} {e : Nat} {rest : List TransportReply} (hw : s.phase = .writing)
    (hr : s.replies = .failed e :: rest) : step s = .next (raiseTransport e (endWrite rest s)) := by
  rw [step_of_writing hw, transportReturn, hr]

/-- Settles O26: the command stops at its `TransportWrite`, and from there each step depends on the transport's reply alone. -/
theorem clientCommandBlocksUntilTheWriteReturns : Obligations.ClientCommandBlocksUntilTheWriteReturns := by
  intro i v s hs hi hr
  obtain ⟨F, hlen, hF⟩ := exists_encodeWith_of_legalClient hs hi
  have hexec : exec i s = .next (transportWrite F s) := by
    rw [exec_of_encodeWith hs hi hF, transportReturn_of_unanswered (s := transportWrite F s) hr]
  exact ⟨F, transportWrite F s, hlen, hexec, rfl, fun _ => step_of_unanswered_write rfl hr,
    fun _ _ _ => step_of_returned_write rfl rfl, fun _ _ _ => step_of_failed_write rfl rfl⟩

/-! ### Overlapping commands -/

/-- While a write is in progress no command is accepted (R118, U6). -/
theorem whenIdle_writing {s : State} (hw : s.phase = .writing) (body : Result) :
    whenIdle s body = .refused .commandInProgress := by
  rw [whenIdle, hw]

/-- Every command a host can present asks for an idle block first (R118). -/
theorem exec_of_writing {i : Instr} {s : State} (hw : s.phase = .writing) (hi : i.presentable = true) :
    exec i s = .refused .commandInProgress := by
  cases i with
  | checksum F => cases hi
  | _ => exact whenIdle_writing hw _

/-- On an idle block a client command answers, or the client is not yet constructed (R96). -/
theorem runClient_of_idle_cases {s : State} (hidle : s.phase = .idle) (own : RangeCheck) (reg v : Int) :
    (∃ t, runClient own reg v s = .next t) ∨ runClient own reg v s = .refused .notConstructed := by
  cases hc : s.constructed with
  | true => exact .inl (runClient_answers hidle hc own reg v)
  | false => exact .inr (runClient_of_not_constructed hidle hc own reg v)

/-- On an idle block an instruction answers, unless it comes on the wrong side of CONSTRUCT (R96, R116). -/
theorem exec_of_idle_cases {s : State} (hidle : s.phase = .idle) (i : Instr) :
    (∃ t, exec i s = .next t) ∨ exec i s = .refused .notConstructed ∨ exec i s = .refused .alreadyConstructed := by
  cases i with
  | setbrt v => exact (runClient_of_idle_cases hidle _ _ v).imp_right .inl
  | showpat v => exact (runClient_of_idle_cases hidle _ _ v).imp_right .inl
  | construct p b =>
    cases hc : s.constructed with
    | true => exact .inr (.inr (execConstruct_of_constructed hidle hc p b))
    | false => exact .inl ⟨_, execConstruct_eq_next.2 ⟨hidle, hc, rfl⟩⟩
  | checksum F => exact .inl ⟨_, rfl⟩
  | _ => exact .inl ⟨_, runBuild_of_idle hidle⟩

/-- So on an idle block no instruction finds another one in progress. -/
theorem exec_of_idle_ne_commandInProgress {s : State} (hidle : s.phase = .idle) (i : Instr) :
    exec i s ≠ .refused .commandInProgress := by
  rcases exec_of_idle_cases hidle i with ⟨t, h⟩ | h | h <;> simp [h]

/-- A step runs a command on an idle block only, so no step finds another command in progress (R118). -/
theorem step_ne_commandInProgress (s : State) : step s ≠ .refused .commandInProgress := by
  cases hphase : s.phase with
  | writing => simp [step_of_writing hphase]
  | idle =>
    cases hq : s.presented with
    | nil => simp [step_of_none_presented hphase hq]
    | cons i rest =>
      cases hi : i.presentable with
      | true =>
        rw [step_of_presented hphase hq hi]
        exact exec_of_idle_ne_commandInProgress (s := s.takeCommand rest) hphase i
      | false => simp [step_of_not_presentable hphase hq hi]

/-- Settles O41: a command asks for an idle block, and a step runs a command on no other. -/
theorem overlappingCommandsAreRefused : Obligations.OverlappingCommandsAreRefused :=
  ⟨fun _ _ hw hi => exec_of_writing hw hi, step_ne_commandInProgress⟩

end Sys2Proof.Machine
end
